-- ==== Sys2Proof/Word.lean ====
section
/-! DEFINITION. The word types of the hardware: every stored value is an unsigned bit vector (R11), nothing is
sign-extended. -/

namespace Sys2Proof

/-- One byte: a memory cell, a general register, a timer (R21, R29, R32). -/
abbrev Byte := BitVec 8

/-- One 16-bit word: an instruction word, `PC`, `I`, a stack cell (R24, R26, R27, R90). -/
abbrev Word := BitVec 16

/-- A 4-bit field: a register index x or y, a row count n, a key index (R92). -/
abbrev Nibble := BitVec 4

/-- A 12-bit immediate address nnn (R93). -/
abbrev Addr12 := BitVec 12

end Sys2Proof
end

