-- ==== Sys2Proof/Syntax.lean ====
section
/-! DEFINITION. The instruction set: one constructor for each of the 35 rows of spec/opcode_table.json (R95), in the
table's order. An Unknown word (R98) is no instruction and has no constructor. -/

namespace Sys2Proof

/-- The 35 operations. Register indices x and y are all sixteen values (R92); nn, n and nnn are unsigned (R93). -/
inductive Instr where
  /-- `0NNN SYS addr` (R235). -/
  | sys (nnn : Addr12)
  /-- `00E0 CLS` (R196). -/
  | cls
  /-- `00EE RET` (R123). -/
  | ret
  /-- `1NNN JP addr` (R121). -/
  | jp (nnn : Addr12)
  /-- `2NNN CALL addr` (R122). -/
  | call (nnn : Addr12)
  /-- `3XNN SE Vx, byte` (R124). -/
  | seByte (x : Nibble) (nn : Byte)
  /-- `4XNN SNE Vx, byte` (R125). -/
  | sneByte (x : Nibble) (nn : Byte)
  /-- `5XY0 SE Vx, Vy` (R126). -/
  | seReg (x y : Nibble)
  /-- `6XNN LD Vx, byte` (R141). -/
  | ldByte (x : Nibble) (nn : Byte)
  /-- `7XNN ADD Vx, byte` (R142). -/
  | addByte (x : Nibble) (nn : Byte)
  /-- `8XY0 LD Vx, Vy` (R143). -/
  | ldReg (x y : Nibble)
  /-- `8XY1 OR Vx, Vy` (R144). -/
  | orReg (x y : Nibble)
  /-- `8XY2 AND Vx, Vy` (R145). -/
  | andReg (x y : Nibble)
  /-- `8XY3 XOR Vx, Vy` (R146). -/
  | xorReg (x y : Nibble)
  /-- `8XY4 ADD Vx, Vy` (R147). -/
  | addReg (x y : Nibble)
  /-- `8XY5 SUB Vx, Vy` (R148). -/
  | subReg (x y : Nibble)
  /-- `8XY6 SHR Vx, Vy` (R149). -/
  | shr (x y : Nibble)
  /-- `8XY7 SUBN Vx, Vy` (R150). -/
  | subnReg (x y : Nibble)
  /-- `8XYE SHL Vx, Vy` (R151). -/
  | shl (x y : Nibble)
  /-- `9XY0 SNE Vx, Vy` (R127). -/
  | sneReg (x y : Nibble)
  /-- `ANNN LD I, addr` (R170). -/
  | ldI (nnn : Addr12)
  /-- `BNNN JP V0, addr` (R129). -/
  | jpV0 (nnn : Addr12)
  /-- `CXNN RND Vx, byte` (R191). -/
  | rnd (x : Nibble) (nn : Byte)
  /-- `DXYN DRW Vx, Vy, nibble` (R197). -/
  | drw (x y n : Nibble)
  /-- `EX9E SKP Vx` (R210). -/
  | skp (x : Nibble)
  /-- `EXA1 SKNP Vx` (R211). -/
  | sknp (x : Nibble)
  /-- `FX07 LD Vx, DT` (R225). -/
  | ldVxDT (x : Nibble)
  /-- `FX0A LD Vx, K` (R212). -/
  | ldVxK (x : Nibble)
  /-- `FX15 LD DT, Vx` (R226). -/
  | ldDTVx (x : Nibble)
  /-- `FX18 LD ST, Vx` (R227). -/
  | ldSTVx (x : Nibble)
  /-- `FX1E ADD I, Vx` (R171). -/
  | addI (x : Nibble)
  /-- `FX29 LD F, Vx` (R172). -/
  | ldF (x : Nibble)
  /-- `FX33 LD B, Vx` (R174). -/
  | ldB (x : Nibble)
  /-- `FX55 LD [I], Vx` (R175). -/
  | storeRegs (x : Nibble)
  /-- `FX65 LD Vx, [I]` (R176). -/
  | loadRegs (x : Nibble)
  deriving DecidableEq, Repr

end Sys2Proof
end

