-- ==== Sys2Proof/Decode.lean ====
section
/-! DEFINITION. The decoder (R94 to R98), the opcode table it agrees with (R95) and the encoder (R104), with the byte
order of an instruction (R64, R90). -/

namespace Sys2Proof

/-! ### Bytes and words -/

/-- `hi :: lo`: the byte at the lower address is bits 15:8 of the word (R64). -/
def joinBytes (hi lo : Byte) : Word := hi.setWidth 16 <<< 8 ||| lo.setWidth 16

/-- Bits 15:8 of a word, the byte stored at the lower address (R64). -/
def highByte (w : Word) : Byte := w.extractLsb' 8 8

/-- Bits 7:0 of a word, the byte stored at the higher address (R64). -/
def lowByte (w : Word) : Byte := w.extractLsb' 0 8

/-! ### Fields (R92) -/

/-- `op = w[15:12]`, the group. -/
def fieldOp (w : Word) : Nibble := w.extractLsb' 12 4

/-- `x = w[11:8]`. -/
def fieldX (w : Word) : Nibble := w.extractLsb' 8 4

/-- `y = w[7:4]`. -/
def fieldY (w : Word) : Nibble := w.extractLsb' 4 4

/-- `n = w[3:0]`. -/
def fieldN (w : Word) : Nibble := w.extractLsb' 0 4

/-- `nn = w[7:0]`. -/
def fieldNN (w : Word) : Byte := w.extractLsb' 0 8

/-- `nnn = w[11:0]`. -/
def fieldNNN (w : Word) : Addr12 := w.extractLsb' 0 12

/-! ### The decoder: the group, and in groups 0, 8, E, F the trailing nibbles (R94) -/

/-- Group 0 is told apart by all of `nnn`; every word but the two is `SYS` (R96). -/
def decodeGroup0 (nnn : Addr12) : Instr :=
  if nnn = 0x0E0#12 then .cls
  else if nnn = 0x0EE#12 then .ret
  else .sys nnn

/-- Group 8 is told apart by `n`; seven values of it are Unknown (R98). -/
def decodeGroup8 (x y n : Nibble) : Option Instr :=
  match n with
  | 0x0#4 => some (.ldReg x y)
  | 0x1#4 => some (.orReg x y)
  | 0x2#4 => some (.andReg x y)
  | 0x3#4 => some (.xorReg x y)
  | 0x4#4 => some (.addReg x y)
  | 0x5#4 => some (.subReg x y)
  | 0x6#4 => some (.shr x y)
  | 0x7#4 => some (.subnReg x y)
  | 0xE#4 => some (.shl x y)
  | _ => none

/-- Group E is told apart by `nn`; 254 values of it are Unknown (R98). -/
def decodeGroupE (x : Nibble) (nn : Byte) : Option Instr :=
  match nn with
  | 0x9E#8 => some (.skp x)
  | 0xA1#8 => some (.sknp x)
  | _ => none

/-- Group F is told apart by `nn`; 247 values of it are Unknown (R98). -/
def decodeGroupF (x : Nibble) (nn : Byte) : Option Instr :=
  match nn with
  | 0x07#8 => some (.ldVxDT x)
  | 0x0A#8 => some (.ldVxK x)
  | 0x15#8 => some (.ldDTVx x)
  | 0x18#8 => some (.ldSTVx x)
  | 0x1E#8 => some (.addI x)
  | 0x29#8 => some (.ldF x)
  | 0x33#8 => some (.ldB x)
  | 0x55#8 => some (.storeRegs x)
  | 0x65#8 => some (.loadRegs x)
  | _ => none

/-- The decoder, "a total function from 16-bit words to the 35 operations plus `Unknown`" (R94); `none` is `Unknown`.
The last nibble of groups 5 and 9 is not examined (R97). -/
def decodeWord (w : Word) : Option Instr :=
  match fieldOp w with
  | 0x0#4 => some (decodeGroup0 (fieldNNN w))
  | 0x1#4 => some (.jp (fieldNNN w))
  | 0x2#4 => some (.call (fieldNNN w))
  | 0x3#4 => some (.seByte (fieldX w) (fieldNN w))
  | 0x4#4 => some (.sneByte (fieldX w) (fieldNN w))
  | 0x5#4 => some (.seReg (fieldX w) (fieldY w))
  | 0x6#4 => some (.ldByte (fieldX w) (fieldNN w))
  | 0x7#4 => some (.addByte (fieldX w) (fieldNN w))
  | 0x8#4 => decodeGroup8 (fieldX w) (fieldY w) (fieldN w)
  | 0x9#4 => some (.sneReg (fieldX w) (fieldY w))
  | 0xA#4 => some (.ldI (fieldNNN w))
  | 0xB#4 => some (.jpV0 (fieldNNN w))
  | 0xC#4 => some (.rnd (fieldX w) (fieldNN w))
  | 0xD#4 => some (.drw (fieldX w) (fieldY w) (fieldN w))
  | 0xE#4 => decodeGroupE (fieldX w) (fieldNN w)
  | 0xF#4 => decodeGroupF (fieldX w) (fieldNN w)
  | _ => none

/-- What a string of bytes begins with: an operation, an Unknown word (rejected by name, R98), or fewer bytes than the
two of an instruction (R90); `rest` is what follows. -/
inductive Decoded where
  | instr (i : Instr) (rest : List Byte)
  | unknown (w : Word) (rest : List Byte)
  | truncated (bytes : List Byte)
  deriving DecidableEq, Repr

/-- The decoder on bytes, total on any of them: every instruction is two bytes, the high byte first (R90). -/
def decode : List Byte → Decoded
  | hi :: lo :: rest =>
    match decodeWord (joinBytes hi lo) with
    | some i => .instr i rest
    | none => .unknown (joinBytes hi lo) rest
  | bytes => .truncated bytes

/-- The instruction the decoder reads from the low `nbits` bits of `w`, numbered as spec/opcode_table.json numbers
them: an instruction is one 16-bit word, laid out high byte first (R64, R90). -/
def decodeTableWord (nbits w : Nat) : Option Instr :=
  let word : Word := BitVec.ofNat 16 (w % 2 ^ nbits)
  match decode [highByte word, lowByte word] with
  | .instr i _ => some i
  | .unknown _ _ => none
  | .truncated _ => none

/-! ### The opcode table (R95) -/

/-- One row of the table: "A word selects a row when `(w AND mask) = match`" (R95). `build` reads the fields that the
row's format names (R91). -/
structure OpcodeRow where
  mnemonic : String
  mask : Word
  value : Word
  build : Word → Instr

/-- The rows of groups 0 to 7, `CLS` and `RET` before `SYS` because they "take priority over row 1" (R96). -/
def opcodeRowsLow : List OpcodeRow := [
  ⟨"CLS", 0xFFFF#16, 0x00E0#16, fun _ => .cls⟩,
  ⟨"RET", 0xFFFF#16, 0x00EE#16, fun _ => .ret⟩,
  ⟨"SYS_addr", 0xF000#16, 0x0000#16, fun w => .sys (fieldNNN w)⟩,
  ⟨"JP_addr", 0xF000#16, 0x1000#16, fun w => .jp (fieldNNN w)⟩,
  ⟨"CALL_addr", 0xF000#16, 0x2000#16, fun w => .call (fieldNNN w)⟩,
  ⟨"SE_Vx__byte", 0xF000#16, 0x3000#16, fun w => .seByte (fieldX w) (fieldNN w)⟩,
  ⟨"SNE_Vx__byte", 0xF000#16, 0x4000#16, fun w => .sneByte (fieldX w) (fieldNN w)⟩,
  ⟨"SE_Vx__Vy", 0xF000#16, 0x5000#16, fun w => .seReg (fieldX w) (fieldY w)⟩,
  ⟨"LD_Vx__byte", 0xF000#16, 0x6000#16, fun w => .ldByte (fieldX w) (fieldNN w)⟩,
  ⟨"ADD_Vx__byte", 0xF000#16, 0x7000#16, fun w => .addByte (fieldX w) (fieldNN w)⟩]

/-- The rows of group 8. -/
def opcodeRows8 : List OpcodeRow := [
  ⟨"LD_Vx__Vy", 0xF00F#16, 0x8000#16, fun w => .ldReg (fieldX w) (fieldY w)⟩,
  ⟨"OR_Vx__Vy", 0xF00F#16, 0x8001#16, fun w => .orReg (fieldX w) (fieldY w)⟩,
  ⟨"AND_Vx__Vy", 0xF00F#16, 0x8002#16, fun w => .andReg (fieldX w) (fieldY w)⟩,
  ⟨"XOR_Vx__Vy", 0xF00F#16, 0x8003#16, fun w => .xorReg (fieldX w) (fieldY w)⟩,
  ⟨"ADD_Vx__Vy", 0xF00F#16, 0x8004#16, fun w => .addReg (fieldX w) (fieldY w)⟩,
  ⟨"SUB_Vx__Vy", 0xF00F#16, 0x8005#16, fun w => .subReg (fieldX w) (fieldY w)⟩,
  ⟨"SHR_Vx____Vy", 0xF00F#16, 0x8006#16, fun w => .shr (fieldX w) (fieldY w)⟩,
  ⟨"SUBN_Vx__Vy", 0xF00F#16, 0x8007#16, fun w => .subnReg (fieldX w) (fieldY w)⟩,
  ⟨"SHL_Vx____Vy", 0xF00F#16, 0x800E#16, fun w => .shl (fieldX w) (fieldY w)⟩]

/-- The rows of groups 9 to E. -/
def opcodeRowsHigh : List OpcodeRow := [
  ⟨"SNE_Vx__Vy", 0xF000#16, 0x9000#16, fun w => .sneReg (fieldX w) (fieldY w)⟩,
  ⟨"LD_I__addr", 0xF000#16, 0xA000#16, fun w => .ldI (fieldNNN w)⟩,
  ⟨"JP_V0__addr", 0xF000#16, 0xB000#16, fun w => .jpV0 (fieldNNN w)⟩,
  ⟨"RND_Vx__byte", 0xF000#16, 0xC000#16, fun w => .rnd (fieldX w) (fieldNN w)⟩,
  ⟨"DRW_Vx__Vy__nibble", 0xF000#16, 0xD000#16, fun w => .drw (fieldX w) (fieldY w) (fieldN w)⟩,
  ⟨"SKP_Vx", 0xF0FF#16, 0xE09E#16, fun w => .skp (fieldX w)⟩,
  ⟨"SKNP_Vx", 0xF0FF#16, 0xE0A1#16, fun w => .sknp (fieldX w)⟩]

/-- The rows of group F. -/
def opcodeRowsF : List OpcodeRow := [
  ⟨"LD_Vx__DT", 0xF0FF#16, 0xF007#16, fun w => .ldVxDT (fieldX w)⟩,
  ⟨"LD_Vx__K", 0xF0FF#16, 0xF00A#16, fun w => .ldVxK (fieldX w)⟩,
  ⟨"LD_DT__Vx", 0xF0FF#16, 0xF015#16, fun w => .ldDTVx (fieldX w)⟩,
  ⟨"LD_ST__Vx", 0xF0FF#16, 0xF018#16, fun w => .ldSTVx (fieldX w)⟩,
  ⟨"ADD_I__Vx", 0xF0FF#16, 0xF01E#16, fun w => .addI (fieldX w)⟩,
  ⟨"LD_F__Vx", 0xF0FF#16, 0xF029#16, fun w => .ldF (fieldX w)⟩,
  ⟨"LD_B__Vx", 0xF0FF#16, 0xF033#16, fun w => .ldB (fieldX w)⟩,
  ⟨"LD__I___Vx", 0xF0FF#16, 0xF055#16, fun w => .storeRegs (fieldX w)⟩,
  ⟨"LD_Vx___I", 0xF0FF#16, 0xF065#16, fun w => .loadRegs (fieldX w)⟩]

/-- The 35 rows of R95, in an order that gives group 0 its priority (R96). -/
def opcodeTable : List OpcodeRow := opcodeRowsLow ++ opcodeRows8 ++ opcodeRowsHigh ++ opcodeRowsF

/-- A word selects a row (R95). -/
def OpcodeRow.selects (r : OpcodeRow) (w : Word) : Bool := w &&& r.mask == r.value

/-- Decoding by the table alone: the first row that the word selects. -/
def decodeByTable (w : Word) : Option Instr := (opcodeTable.find? (·.selects w)).map (·.build w)

/-- The instruction's mnemonic, as spec/opcode_table.json spells it. -/
def Instr.mnemonic : Instr → String
  | .sys _ => "SYS_addr"
  | .cls => "CLS"
  | .ret => "RET"
  | .jp _ => "JP_addr"
  | .call _ => "CALL_addr"
  | .seByte _ _ => "SE_Vx__byte"
  | .sneByte _ _ => "SNE_Vx__byte"
  | .seReg _ _ => "SE_Vx__Vy"
  | .ldByte _ _ => "LD_Vx__byte"
  | .addByte _ _ => "ADD_Vx__byte"
  | .ldReg _ _ => "LD_Vx__Vy"
  | .orReg _ _ => "OR_Vx__Vy"
  | .andReg _ _ => "AND_Vx__Vy"
  | .xorReg _ _ => "XOR_Vx__Vy"
  | .addReg _ _ => "ADD_Vx__Vy"
  | .subReg _ _ => "SUB_Vx__Vy"
  | .shr _ _ => "SHR_Vx____Vy"
  | .subnReg _ _ => "SUBN_Vx__Vy"
  | .shl _ _ => "SHL_Vx____Vy"
  | .sneReg _ _ => "SNE_Vx__Vy"
  | .ldI _ => "LD_I__addr"
  | .jpV0 _ => "JP_V0__addr"
  | .rnd _ _ => "RND_Vx__byte"
  | .drw _ _ _ => "DRW_Vx__Vy__nibble"
  | .skp _ => "SKP_Vx"
  | .sknp _ => "SKNP_Vx"
  | .ldVxDT _ => "LD_Vx__DT"
  | .ldVxK _ => "LD_Vx__K"
  | .ldDTVx _ => "LD_DT__Vx"
  | .ldSTVx _ => "LD_ST__Vx"
  | .addI _ => "ADD_I__Vx"
  | .ldF _ => "LD_F__Vx"
  | .ldB _ => "LD_B__Vx"
  | .storeRegs _ => "LD__I___Vx"
  | .loadRegs _ => "LD_Vx___I"

/-! ### The encoder -/

/-- A word of format NNN: the group in bits 15:12, `nnn` in bits 11:0 (R91). -/
def wordNNN (op : Nibble) (nnn : Addr12) : Word := op.setWidth 16 <<< 12 ||| nnn.setWidth 16

/-- A word of format XNN or X: x in bits 11:8, the low byte in bits 7:0 (R91). -/
def wordXNN (op x : Nibble) (nn : Byte) : Word :=
  op.setWidth 16 <<< 12 ||| x.setWidth 16 <<< 8 ||| nn.setWidth 16

/-- A word of format XY or XYN: x in bits 11:8, y in bits 7:4, the last nibble in bits 3:0 (R91). -/
def wordXYN (op x y n : Nibble) : Word :=
  op.setWidth 16 <<< 12 ||| x.setWidth 16 <<< 8 ||| y.setWidth 16 <<< 4 ||| n.setWidth 16

/-- The word of an instruction: "start from `match`, then place x in bits 11:8, y in bits 7:4, and `n`, `nn` or `nnn`
in the low bits, as the format says" (R104). Groups 5 and 9 get the canonical last nibble 0 (R97). -/
def encode : Instr → Word
  | .sys nnn => wordNNN 0x0#4 nnn
  | .cls => 0x00E0#16
  | .ret => 0x00EE#16
  | .jp nnn => wordNNN 0x1#4 nnn
  | .call nnn => wordNNN 0x2#4 nnn
  | .seByte x nn => wordXNN 0x3#4 x nn
  | .sneByte x nn => wordXNN 0x4#4 x nn
  | .seReg x y => wordXYN 0x5#4 x y 0x0#4
  | .ldByte x nn => wordXNN 0x6#4 x nn
  | .addByte x nn => wordXNN 0x7#4 x nn
  | .ldReg x y => wordXYN 0x8#4 x y 0x0#4
  | .orReg x y => wordXYN 0x8#4 x y 0x1#4
  | .andReg x y => wordXYN 0x8#4 x y 0x2#4
  | .xorReg x y => wordXYN 0x8#4 x y 0x3#4
  | .addReg x y => wordXYN 0x8#4 x y 0x4#4
  | .subReg x y => wordXYN 0x8#4 x y 0x5#4
  | .shr x y => wordXYN 0x8#4 x y 0x6#4
  | .subnReg x y => wordXYN 0x8#4 x y 0x7#4
  | .shl x y => wordXYN 0x8#4 x y 0xE#4
  | .sneReg x y => wordXYN 0x9#4 x y 0x0#4
  | .ldI nnn => wordNNN 0xA#4 nnn
  | .jpV0 nnn => wordNNN 0xB#4 nnn
  | .rnd x nn => wordXNN 0xC#4 x nn
  | .drw x y n => wordXYN 0xD#4 x y n
  | .skp x => wordXNN 0xE#4 x 0x9E#8
  | .sknp x => wordXNN 0xE#4 x 0xA1#8
  | .ldVxDT x => wordXNN 0xF#4 x 0x07#8
  | .ldVxK x => wordXNN 0xF#4 x 0x0A#8
  | .ldDTVx x => wordXNN 0xF#4 x 0x15#8
  | .ldSTVx x => wordXNN 0xF#4 x 0x18#8
  | .addI x => wordXNN 0xF#4 x 0x1E#8
  | .ldF x => wordXNN 0xF#4 x 0x29#8
  | .ldB x => wordXNN 0xF#4 x 0x33#8
  | .storeRegs x => wordXNN 0xF#4 x 0x55#8
  | .loadRegs x => wordXNN 0xF#4 x 0x65#8

/-- The two bytes of an instruction in the order they lie in memory (R64, R90). -/
def encodeBytes (i : Instr) : List Byte := [highByte (encode i), lowByte (encode i)]

end Sys2Proof
end

