-- ==== Sys2Proof/Config.lean ====
section
/-! DEFINITION. What an implementation fixes (R6) and the one free value of the hardware (R190). The default values
stand in Machine/Defaults.lean. -/

namespace Sys2Proof

/-- The parameters the source leaves open, each "a field of the model's configuration" (R6). A machine carries one
configuration for its whole life: no instruction and no host operation changes it. -/
structure Config where
  /-- `INDEX_INCREMENT`: the block moves add x + 1 to `I` (R177). -/
  indexIncrement : Bool
  /-- `SHIFT_USES_VY`: the shifts read V[y] and not V[x] (R149, R151). -/
  shiftUsesVy : Bool
  /-- `FONT_BASE`, 0 ≤ FONT_BASE ≤ 0x1B0 (R6). -/
  fontBase : Fin 0x1B1
  /-- `FONT`: 16 glyphs of 5 bytes (R33). -/
  font : Vector Byte 80
  deriving DecidableEq, Repr

/-- The byte the k-th executed `RND` draws (R190): "any of the 256 values, chosen anew at each execution, under no
law". It has no body, so nothing about any of its values can be proved. Log entry 2. -/
opaque Config.freeDraw : Nat → Byte

end Sys2Proof
end

