-- ==== Sys2Proof/Machine/Defaults.lean ====
section
/-! DEFINITION. The default configuration (R6) and the default font table (R33). Log entry 1. -/

namespace Sys2Proof.Machine

/-- The glyphs of the digits 0 to 7, five bytes each, top row first (R33). -/
def defaultGlyphsLow : Vector Byte 40 := #v[
  0xF0#8, 0x90#8, 0x90#8, 0x90#8, 0xF0#8,
  0x20#8, 0x60#8, 0x20#8, 0x20#8, 0x70#8,
  0xF0#8, 0x10#8, 0xF0#8, 0x80#8, 0xF0#8,
  0xF0#8, 0x10#8, 0xF0#8, 0x10#8, 0xF0#8,
  0x90#8, 0x90#8, 0xF0#8, 0x10#8, 0x10#8,
  0xF0#8, 0x80#8, 0xF0#8, 0x10#8, 0xF0#8,
  0xF0#8, 0x80#8, 0xF0#8, 0x90#8, 0xF0#8,
  0xF0#8, 0x10#8, 0x20#8, 0x40#8, 0x40#8]

/-- The glyphs of the digits 8 to F, five bytes each, top row first (R33). -/
def defaultGlyphsHigh : Vector Byte 40 := #v[
  0xF0#8, 0x90#8, 0xF0#8, 0x90#8, 0xF0#8,
  0xF0#8, 0x90#8, 0xF0#8, 0x10#8, 0xF0#8,
  0xF0#8, 0x90#8, 0xF0#8, 0x90#8, 0x90#8,
  0xE0#8, 0x90#8, 0xE0#8, 0x90#8, 0xE0#8,
  0xF0#8, 0x80#8, 0x80#8, 0x80#8, 0xF0#8,
  0xE0#8, 0x90#8, 0x90#8, 0x90#8, 0xE0#8,
  0xF0#8, 0x80#8, 0xF0#8, 0x80#8, 0xF0#8,
  0xF0#8, 0x80#8, 0xF0#8, 0x80#8, 0x80#8]

/-- The configuration with every parameter at the default of R6: `I` unmodified by the block moves, shifts in place,
the font of R33 at address 0x000. -/
def defaultConfig : Config where
  indexIncrement := false
  shiftUsesVy := false
  fontBase := 0
  font := defaultGlyphsLow ++ defaultGlyphsHigh

end Sys2Proof.Machine
end

