-- ==== Sys2Proof/Machine/State.lean ====
section
/-! DEFINITION. The state of the core as plain data: the seventeen items of R20, and two fields of the model's own (the
configuration, which R8 calls a parameter, and the count of random draws). The state right after reset (R45). -/

namespace Sys2Proof.Machine

/-- The display: 32 rows, row 0 at the top, of 64 columns, column 0 at the left (R31). -/
abbrev Display := Vector (Vector Bool 64) 32

/-- The values of the `FAULT` register (R41). -/
inductive FaultCode where
  /-- Code 0, `NONE`. -/
  | noFault
  /-- Code 1, `STACK_OVERFLOW`: a `CALL` with 16 return addresses on the stack (R122). -/
  | stackOverflow
  /-- Code 2, `STACK_UNDERFLOW`: a `RET` with none (R123). -/
  | stackUnderflow
  /-- Code 3, `MEM_OUT_OF_RANGE`: an access above 0xFFF (R62, R65). -/
  | memOutOfRange
  deriving DecidableEq, Repr

/-- The reasons for a step to end in `Outcome.fault`: none. Every fatal fault of this hardware is taken as R284
describes it, in a next state whose `FAULT` register is set, and a faulted core answers every later cycle with the same
state (R246). So nothing raises a `Fault`; that is safe (log entry 3). -/
inductive Fault where
  deriving DecidableEq, Repr

/-- The reasons for a step to end in `Outcome.refused`. -/
inductive Refusal where
  /-- Raised by an arm of `exec` whose instruction has no meaning yet. Safe: nothing is claimed of it. No arm raises
  it. -/
  | notModelled (mnemonic : String)
  deriving DecidableEq, Repr

/-- The state of the machine (R20). -/
structure State where
  /-- 1, `MEM` (R32): the cells that differ from their reset contents, addresses rising. Read it through `readByte`. -/
  mem : List Host.Cell
  /-- 2, `V0` to `VF` (R21). -/
  v : Vector Byte 16
  /-- 3, the index register (R26). -/
  i : Word
  /-- 4, the program counter (R24). -/
  pc : Word
  /-- 5, the return addresses (R27). -/
  stack : Vector Word 16
  /-- 6, the number of return addresses on the stack, "legal values 0..16" (R28). -/
  sp : Fin 17
  /-- 7, the delay timer (R29). -/
  dt : Byte
  /-- 8, the sound timer (R30). -/
  st : Byte
  /-- 9, the display buffer (R31). -/
  disp : Display
  /-- 10, the key-down flags (R34). -/
  keys : Vector Bool 16
  /-- 11, stalled on a key wait (R35). -/
  waiting : Bool
  /-- 12, some stall has been satisfied since reset (R36). -/
  lastKeyValid : Bool
  /-- 13, the key that last satisfied a stall (R36). -/
  lastKey : Nibble
  /-- 14, a key press has ended a stall and is not delivered yet (R37). -/
  keyPending : Bool
  /-- 15, the draw request latch (R39). -/
  drawReq : Bool
  /-- 16, the sound request latch (R40). -/
  soundReq : Bool
  /-- 17, the fault register (R41). -/
  fault : FaultCode
  /-- The model's own: the configuration of this machine (R6), which nothing changes. Log entry 1. -/
  config : Config
  /-- The model's own: how many random bytes have been drawn (R190). Log entry 2. -/
  drawCount : Nat
  deriving DecidableEq, Repr

/-- The state after power-on and after reset (R45, R320, R321), in the default configuration (R6): no cell differs from
its reset contents. -/
def State.reset : State where
  mem := []
  v := Vector.replicate 16 0#8
  i := 0#16
  pc := 0x200#16
  stack := Vector.replicate 16 0#16
  sp := 0
  dt := 0#8
  st := 0#8
  disp := Vector.replicate 32 (Vector.replicate 64 false)
  keys := Vector.replicate 16 false
  waiting := false
  lastKeyValid := false
  lastKey := 0#4
  keyPending := false
  drawReq := false
  soundReq := false
  fault := .noFault
  config := defaultConfig
  drawCount := 0

end Sys2Proof.Machine
end

