-- ==== Sys2Proof/Machine/Ops.lean ====
section
/-! DEFINITION. The named operations over memory, registers and the other state (R12, R60), the fetch (R65), the stack
(R28), the taking of a fatal fault (R284) and the stall (R12). Meanings read and write the state through these alone. -/

namespace Sys2Proof.Machine

/-! ### Memory (R32, R60 to R63) -/

/-- What a byte that nothing has written reads as: its reset contents, `FONT[i]` at `FONT_BASE + i` and 0 elsewhere
(R45). -/
def resetByte (c : Config) (a : Nat) : Byte :=
  if h : c.fontBase.val ≤ a ∧ a < c.fontBase.val + 80 then c.font[a - c.fontBase.val]'(by omega) else 0#8

/-- The byte at address `a` of a memory given by its cells. -/
def Memory.read (c : Config) : List Host.Cell → Nat → Byte
  | [], a => resetByte c a
  | (b, w) :: rest, a => if a = b then w else Memory.read c rest a

/-- The cells with byte `w` put in front, unless `w` is what the address reads as without a cell. -/
def Memory.cons (c : Config) (a : Nat) (w : Byte) (rest : List Host.Cell) : List Host.Cell :=
  if w = resetByte c a then rest else (a, w) :: rest

/-- The cells after byte `w` is stored at address `a`, kept in canonical form. -/
def Memory.put (c : Config) (a : Nat) (w : Byte) : List Host.Cell → List Host.Cell
  | [] => Memory.cons c a w []
  | (b, u) :: rest =>
    if a < b then Memory.cons c a w ((b, u) :: rest)
    else if a = b then Memory.cons c a w rest
    else (b, u) :: Memory.put c a w rest

/-- `MemWrite(a, 1, w)` on the cells (R60). There is no memory above 0xFFF (R69): nothing is stored there, and no
meaning asks for it, since each checks its range first (R63; log entry 11). -/
def Memory.write (c : Config) (a : Nat) (w : Byte) (m : List Host.Cell) : List Host.Cell :=
  if a < 0x1000 then Memory.put c a w m else m

/-- The canonical form from address `lo` upward: addresses strictly rising and inside memory, no cell equal to what its
address reads as without it. -/
def Memory.wfFrom (c : Config) : Nat → List Host.Cell → Bool
  | _, [] => true
  | lo, (a, w) :: rest => decide (lo ≤ a) && decide (a < 0x1000) && w != resetByte c a && Memory.wfFrom c (a + 1) rest

/-- The canonical form of a memory. -/
def Memory.wf (c : Config) (m : List Host.Cell) : Bool := Memory.wfFrom c 0 m

/-- `MemRead(a, 1)` (R60). -/
def State.readByte (s : State) (a : Nat) : Byte := Memory.read s.config s.mem a

/-- `MemWrite(a, 1, w)` (R60). -/
def State.writeByte (s : State) (a : Nat) (w : Byte) : State := { s with mem := Memory.write s.config a w s.mem }

/-- `CheckRange(addr, count)` (R12, R63): the lowest address out of range that the accesses would touch, if any. -/
def checkRange (addr count : Nat) : Option Nat :=
  if 0 < count ∧ 0xFFF < addr + count - 1 then some (max addr 0x1000) else none

/-! ### General registers (R21) -/

/-- `V[x]`. -/
def State.getV (s : State) (x : Nibble) : Byte := s.v[x.toNat]'x.isLt

/-- `V[x] <- b`. -/
def State.setV (s : State) (x : Nibble) (b : Byte) : State := { s with v := s.v.set x.toNat b x.isLt }

/-! ### The other registers -/

/-- `I <- w` (R26). -/
def State.setI (s : State) (w : Word) : State := { s with i := w }

/-- `pc <- w` (R24). -/
def State.setPC (s : State) (w : Word) : State := { s with pc := w }

/-- `DT <- b` (R29). -/
def State.setDT (s : State) (b : Byte) : State := { s with dt := b }

/-- `ST <- b` (R30). -/
def State.setST (s : State) (b : Byte) : State := { s with st := b }

/-- The display replaced by `d` (R31). -/
def State.setDisp (s : State) (d : Display) : State := { s with disp := d }

/-- `KEYS[k] <- down` (R34). -/
def State.setKey (s : State) (k : Nibble) (down : Bool) : State := { s with keys := s.keys.set k.toNat down k.isLt }

/-- `KEYS[k]` (R34). -/
def State.keyDownFlag (s : State) (k : Nibble) : Bool := s.keys[k.toNat]'k.isLt

/-- `WAITING <- b` (R35). -/
def State.setWaiting (s : State) (b : Bool) : State := { s with waiting := b }

/-- `LAST_KEY <- k` and `LAST_KEY_VALID <- 1` (R36). -/
def State.setLastKey (s : State) (k : Nibble) : State := { s with lastKey := k, lastKeyValid := true }

/-- `KEY_PENDING <- b` (R37). -/
def State.setKeyPending (s : State) (b : Bool) : State := { s with keyPending := b }

/-- `DRAW_REQ <- b` (R39). -/
def State.setDrawReq (s : State) (b : Bool) : State := { s with drawReq := b }

/-- `SOUND_REQ <- b` (R40). -/
def State.setSoundReq (s : State) (b : Bool) : State := { s with soundReq := b }

/-- `SOUND_REQ <- 1` if `ST ≠ 0`, otherwise nothing: the latch's only trigger (R40). -/
def State.requestSound (s : State) : State := if s.st = 0#8 then s else s.setSoundReq true

/-- The next random draw counted as consumed (R190). -/
def State.countDraw (s : State) : State := { s with drawCount := s.drawCount + 1 }

/-- `draw()`: "one 8-bit value ... from a source outside the core's state" (R190), free. -/
def State.draw (s : State) : Byte := Config.freeDraw s.drawCount

/-! ### The call stack (R27, R28) -/

/-- A push stores at `STACK[SP]` and then increments `SP`; there is none at `SP = 16`. -/
def State.push (s : State) (w : Word) : Option State :=
  if h : s.sp.val < 16 then
    some { s with stack := s.stack.set s.sp.val w h, sp := ⟨s.sp.val + 1, by omega⟩ }
  else none

/-- A pop decrements `SP` and then reads `STACK[SP]`, which keeps its value; there is none at `SP = 0`. -/
def State.pop (s : State) : Option (Word × State) :=
  if h : 0 < s.sp.val then
    some (s.stack[s.sp.val - 1]'(by omega), { s with sp := ⟨s.sp.val - 1, by omega⟩ })
  else none

/-! ### The program counter, the fetch, the fault, the stall -/

/-- The fetch "advances PC by 2 before dispatch" (R24, R247). -/
def State.advance (s : State) : State := s.setPC (s.pc + 2#16)

/-- A taken skip adds 2 to the advanced pc (R120, R128). -/
def State.skip (s : State) : State := s.setPC (s.pc + 2#16)

/-- A skip taken on a condition. -/
def State.skipIf (s : State) (b : Bool) : State := if b then s.skip else s

/-- The address A of the instruction being executed: "on entry `pc = A + 2`" (R12; log entry 7). -/
def State.instrAddr (s : State) : Word := s.pc - 2#16

/-- `MemRead(PC, 2)`, big-endian (R64), where `PC ≤ 0xFFE`; nothing otherwise (R65). -/
def State.fetch (s : State) : Option Word :=
  if s.pc.toNat ≤ 0xFFE then some (joinBytes (s.readByte s.pc.toNat) (s.readByte (s.pc.toNat + 1))) else none

/-- Taking a fatal fault, for the instruction at address `a` (R284): `PC <- a`, `FAULT <- code`, nothing else changes.
There is no return from it: the host's `reset` is the only way out (R288). -/
def State.takeFault (s : State) (a : Word) (f : FaultCode) : State := { s with pc := a, fault := f }

/-- `raise <Fault>` inside an instruction (R12, R284). A meaning raises before its first write, so that none of the
instruction's writes is made (R285). -/
def raise (f : FaultCode) (s : State) : Host.Outcome State Fault Refusal := .next (s.takeFault s.instrAddr f)

/-- The meaning of an instruction that accesses `count` bytes from `addr`: the range check of all of them, then the
effect (R63, R285). -/
def withRange (addr count : Nat) (s t : State) : Host.Outcome State Fault Refusal :=
  match checkRange addr count with
  | some _ => raise .memOutOfRange s
  | none => .next t

/-- `stall` (R12): `pc <- A`, "the same instruction is fetched again by the next `cycle`". -/
def State.stall (s : State) : State := s.setPC s.instrAddr

/-- The 2-bit code of a value of `FAULT` (R41). -/
def FaultCode.code : FaultCode → BitVec 2
  | .noFault => 0#2
  | .stackOverflow => 1#2
  | .stackUnderflow => 2#2
  | .memOutOfRange => 3#2

end Sys2Proof.Machine
end

