-- ==== Sys2Proof/Machine/Flags.lean ====
section
/-! DEFINITION. The flag computations (R152) and the order of the flag write (R23): VF, which is V[15], is the only
flag of the machine (R22). -/

namespace Sys2Proof.Machine

/-- Register 15, VF. -/
def regVF : Nibble := 15#4

/-- A flag as the byte that VF holds. -/
def flagByte (b : Bool) : Byte := if b then 1#8 else 0#8

/-- Carry out of bit 7: 1 if the sum exceeds 255 (R147). -/
def carryOut (a b : Byte) : Bool := decide (255 < a.toNat + b.toNat)

/-- No borrow: 1 if minuend ≥ subtrahend (R148, R150). -/
def noBorrow (a b : Byte) : Bool := decide (b.toNat ≤ a.toNat)

/-- The bit a right shift by one loses (R149). -/
def bitOutRight (a : Byte) : Bool := a.getLsbD 0

/-- The bit a left shift by one loses (R151). -/
def bitOutLeft (a : Byte) : Bool := a.getLsbD 7

/-- The result goes to V[x] and then the flag to V[15], which overwrites it when x = 15 (R23). -/
def State.setResultFlag (s : State) (x : Nibble) (result : Byte) (flag : Bool) : State :=
  (s.setV x result).setV regVF (flagByte flag)

end Sys2Proof.Machine
end

