-- ==== Sys2Proof/Machine/Operands.lean ====
section
/-! DEFINITION. The operand forms: immediates (R93), digits and key indices in a register (R172, R214), the shifts'
source (R149), data addresses (R173), the block moves' index update (R177), decimal digits (R174), sprite geometry
(R195, R197). -/

namespace Sys2Proof.Machine

/-- `zext_16(nnn)`: an absolute byte address (R93). -/
def zextAddr (nnn : Addr12) : Word := nnn.setWidth 16

/-- `zext_16(V[x])`. -/
def zextByte (b : Byte) : Word := b.setWidth 16

/-- `zext_8` of a key index (R212). -/
def zextNibble (k : Nibble) : Byte := k.setWidth 8

/-- `V[x] AND 0x0F`: the digit of `LD F, Vx` (R172), the key of `SKP` and `SKNP` (R214). -/
def State.lowNibbleOf (s : State) (x : Nibble) : Nibble := (s.getV x).setWidth 4

/-- The register a shift reads: `V[y] if SHIFT_USES_VY else V[x]` (R149, R151). -/
def State.shiftSource (s : State) (x y : Nibble) : Byte := if s.config.shiftUsesVy then s.getV y else s.getV x

/-- The effective address `I + k`, on unbounded numbers (R61, R173). -/
def State.dataAddr (s : State) (k : Nat) : Nat := s.i.toNat + k

/-- `FONT_BASE + 5 · d`, the address of a digit's glyph (R172). -/
def glyphAddr (c : Config) (d : Nibble) : Word := BitVec.ofNat 16 (c.fontBase.val + 5 * d.toNat)

/-- `I` after a block move of registers V0 to Vx: `(I + x + 1) mod 65536` under `INDEX_INCREMENT`, else unmodified
(R177). -/
def State.blockIndex (s : State) (x : Nibble) : Word :=
  if s.config.indexIncrement then BitVec.ofNat 16 (s.i.toNat + x.toNat + 1) else s.i

/-- The hundreds digit of a byte (R174). -/
def hundreds (b : Byte) : Byte := BitVec.ofNat 8 (b.toNat / 100)

/-- The tens digit of a byte (R174). -/
def tens (b : Byte) : Byte := BitVec.ofNat 8 (b.toNat / 10 % 10)

/-- The ones digit of a byte (R174). -/
def ones (b : Byte) : Byte := BitVec.ofNat 8 (b.toNat % 10)

/-- Sprite column c of a row byte: "bit 7 is the leftmost pixel", so it is bit 7 − c (R195). -/
def spriteBit (row : Byte) (c : Nat) : Bool := row.getLsbD (7 - c)

/-- A pixel row, "mod 32" (R197). -/
def wrapRow (r : Nat) : Fin 32 := ⟨r % 32, by omega⟩

/-- A pixel column, "mod 64" (R197). -/
def wrapCol (c : Nat) : Fin 64 := ⟨c % 64, by omega⟩

end Sys2Proof.Machine
end

