-- ==== Sys2Proof/Machine/ControlFlow.lean ====
section
/-! DEFINITION. The control-flow instructions (R120 to R129). On entry `pc = A + 2` (R120). -/

namespace Sys2Proof.Machine

/-- `JP addr` (R121): `pc <- zext_16(nnn)`. -/
def execJp (nnn : Addr12) (s : State) : Host.Outcome State Fault Refusal := .next (s.setPC (zextAddr nnn))

/-- `CALL addr` (R122): a full stack raises `StackOverflow`; otherwise the address after the call is pushed. -/
def execCall (nnn : Addr12) (s : State) : Host.Outcome State Fault Refusal :=
  match s.push s.pc with
  | none => raise .stackOverflow s
  | some t => .next (t.setPC (zextAddr nnn))

/-- `RET` (R123): an empty stack raises `StackUnderflow`; otherwise the popped address becomes the pc. -/
def execRet (s : State) : Host.Outcome State Fault Refusal :=
  match s.pop with
  | none => raise .stackUnderflow s
  | some (target, t) => .next (t.setPC target)

/-- `SE Vx, byte` (R124). -/
def execSeByte (x : Nibble) (nn : Byte) (s : State) : Host.Outcome State Fault Refusal :=
  .next (s.skipIf (s.getV x == nn))

/-- `SNE Vx, byte` (R125). -/
def execSneByte (x : Nibble) (nn : Byte) (s : State) : Host.Outcome State Fault Refusal :=
  .next (s.skipIf (s.getV x != nn))

/-- `SE Vx, Vy` (R126). -/
def execSeReg (x y : Nibble) (s : State) : Host.Outcome State Fault Refusal :=
  .next (s.skipIf (s.getV x == s.getV y))

/-- `SNE Vx, Vy` (R127). -/
def execSneReg (x y : Nibble) (s : State) : Host.Outcome State Fault Refusal :=
  .next (s.skipIf (s.getV x != s.getV y))

/-- `JP V0, addr` (R129): `pc <- zext_16(nnn) + zext_16(V[0])`, at most 0x10FE, not reduced. -/
def execJpV0 (nnn : Addr12) (s : State) : Host.Outcome State Fault Refusal :=
  .next (s.setPC (zextAddr nnn + zextByte (s.getV 0#4)))

end Sys2Proof.Machine
end

