-- ==== Sys2Proof/Machine/Display.lean ====
section
/-! DEFINITION. The display instructions (R195 to R199). -/

namespace Sys2Proof.Machine

/-- `DISP[r][c]` of a display. -/
def Display.pixel (d : Display) (r : Fin 32) (c : Fin 64) : Bool := d[r.val][c.val]

/-- `DISP[r][c] <- b` on a display. -/
def Display.setPixel (d : Display) (r : Fin 32) (c : Fin 64) (b : Bool) : Display :=
  d.set r.val (d[r.val].set c.val b)

/-- The display with every pixel 0. -/
def clearDisplay : Display := Vector.replicate 32 (Vector.replicate 64 false)

/-- A blit under way: the display so far, and whether a pixel was erased so far (R197). -/
structure Blit where
  disp : Display
  hit : Bool
  deriving DecidableEq, Repr

/-- One sprite bit onto one pixel: a 1 flips the pixel and hits where the pixel was 1; a 0 does nothing (R197). -/
def blitPixel (r : Fin 32) (c : Fin 64) (on : Bool) (p : Blit) : Blit :=
  if on then
    { disp := p.disp.setPixel r c (!p.disp.pixel r c), hit := p.hit || p.disp.pixel r c }
  else p

/-- The columns 0 to n−1 of one row byte, from column x0 on, wrapping per pixel (R197). -/
def blitCols (row : Byte) (r : Fin 32) (x0 : Nat) : Nat → Blit → Blit
  | 0, p => p
  | n + 1, p => blitPixel r (wrapCol (x0 + n)) (spriteBit row n) (blitCols row r x0 n p)

/-- The rows 0 to n−1 of the sprite at `I`, from row y0 on, wrapping per pixel (R197). -/
def blitRows (s : State) (x0 y0 : Nat) : Nat → Blit → Blit
  | 0, p => p
  | n + 1, p => blitCols (s.readByte (s.dataAddr n)) (wrapRow (y0 + n)) x0 8 (blitRows s x0 y0 n p)

/-- The whole blit of an n-row sprite at (V[x] mod 64, V[y] mod 32), on the display as it is (R197). -/
def State.blit (s : State) (x y n : Nibble) : Blit :=
  blitRows s ((s.getV x).toNat % 64) ((s.getV y).toNat % 32) n.toNat { disp := s.disp, hit := false }

/-- `CLS` (R196): every pixel 0, `DRAW_REQ` set, VF not written. -/
def execCls (s : State) : Host.Outcome State Fault Refusal := .next ((s.setDisp clearDisplay).setDrawReq true)

/-- `DRW Vx, Vy, nibble` (R197): the range of the sprite is checked first; the blit reads V[x] and V[y] before VF is
written, last, with the collision; every `DRW` that does not fault sets `DRAW_REQ`. -/
def execDrw (x y n : Nibble) (s : State) : Host.Outcome State Fault Refusal :=
  withRange (s.dataAddr 0) n.toNat s
    (((s.setDisp (s.blit x y n).disp).setV regVF (flagByte (s.blit x y n).hit)).setDrawReq true)

end Sys2Proof.Machine
end

