-- ==== Sys2Proof/Machine/Input.lean ====
section
/-! DEFINITION. The keypad instructions and the key-wait stall (R210 to R215). -/

namespace Sys2Proof.Machine

/-- The least index k with `KEYS[k] = 1`, if a key is down (R212 case 3, R215). -/
def State.leastKeyDown (s : State) : Option Nibble := (s.keys.toList.findIdx? id).map (BitVec.ofNat 4)

/-- `SKP Vx` (R210). -/
def execSkp (x : Nibble) (s : State) : Host.Outcome State Fault Refusal :=
  .next (s.skipIf (s.keyDownFlag (s.lowNibbleOf x)))

/-- `SKNP Vx` (R211). -/
def execSknp (x : Nibble) (s : State) : Host.Outcome State Fault Refusal :=
  .next (s.skipIf (!s.keyDownFlag (s.lowNibbleOf x)))

/-- `LD Vx, K` (R212), its four cases in order: a key press that ended the stall is delivered; a stall without one goes
on; a key already down is taken at once; otherwise the stall begins. `LAST_KEY` is not written here (log entry 10). -/
def execLdVxK (x : Nibble) (s : State) : Host.Outcome State Fault Refusal :=
  if s.keyPending then .next ((s.setV x (zextNibble s.lastKey)).setKeyPending false)
  else if s.waiting then .next s.stall
  else
    match s.leastKeyDown with
    | some k => .next (s.setV x (zextNibble k))
    | none => .next ((s.setWaiting true).stall)

end Sys2Proof.Machine
end

