-- ==== Sys2Proof/Machine/MemoryOps.lean ====
section
/-! DEFINITION. The index-register and memory instructions (R170 to R177). Every instruction that accesses memory checks
its whole range first (R63). -/

namespace Sys2Proof.Machine

/-- Registers V0 to V(n−1) stored at ascending addresses from `addr` (R175). -/
def storeBlock (addr : Nat) : Nat → State → State
  | 0, s => s
  | n + 1, s => (storeBlock addr n s).writeByte (addr + n) (s.getV (BitVec.ofNat 4 n))

/-- Registers V0 to V(n−1) loaded from ascending addresses from `addr` (R176). -/
def loadBlock (addr : Nat) : Nat → State → State
  | 0, s => s
  | n + 1, s => (loadBlock addr n s).setV (BitVec.ofNat 4 n) (s.readByte (addr + n))

/-- The three decimal digits of `b` stored from `I`, the hundreds at the lowest address (R174). -/
def State.storeDigits (s : State) (b : Byte) : State :=
  ((s.writeByte (s.dataAddr 0) (hundreds b)).writeByte (s.dataAddr 1) (tens b)).writeByte (s.dataAddr 2) (ones b)

/-- `LD I, addr` (R170). -/
def execLdI (nnn : Addr12) (s : State) : Host.Outcome State Fault Refusal := .next (s.setI (zextAddr nnn))

/-- `ADD I, Vx` (R171): modulo 65536, VF is not written. -/
def execAddI (x : Nibble) (s : State) : Host.Outcome State Fault Refusal :=
  .next (s.setI (s.i + zextByte (s.getV x)))

/-- `LD F, Vx` (R172). -/
def execLdF (x : Nibble) (s : State) : Host.Outcome State Fault Refusal :=
  .next (s.setI (glyphAddr s.config (s.lowNibbleOf x)))

/-- `LD B, Vx` (R174): `I` and the registers are not modified. -/
def execLdB (x : Nibble) (s : State) : Host.Outcome State Fault Refusal :=
  withRange (s.dataAddr 0) 3 s (s.storeDigits (s.getV x))

/-- `LD [I], Vx` (R175): V0 to Vx stored, then `I` by `INDEX_INCREMENT` (R177). -/
def execStoreRegs (x : Nibble) (s : State) : Host.Outcome State Fault Refusal :=
  withRange (s.dataAddr 0) (x.toNat + 1) s ((storeBlock (s.dataAddr 0) (x.toNat + 1) s).setI (s.blockIndex x))

/-- `LD Vx, [I]` (R176): V0 to Vx loaded, then `I` by `INDEX_INCREMENT` (R177). -/
def execLoadRegs (x : Nibble) (s : State) : Host.Outcome State Fault Refusal :=
  withRange (s.dataAddr 0) (x.toNat + 1) s ((loadBlock (s.dataAddr 0) (x.toNat + 1) s).setI (s.blockIndex x))

end Sys2Proof.Machine
end

