-- ==== Sys2Proof/Machine/Random.lean ====
section
/-! DEFINITION. The random-number instruction (R190, R191). -/

namespace Sys2Proof.Machine

/-- `RND Vx, byte` (R191): `V[x] <- draw() AND nn`, the draw free and fresh at each execution (R190; log entry 2). -/
def execRnd (x : Nibble) (nn : Byte) (s : State) : Host.Outcome State Fault Refusal :=
  .next ((s.setV x (s.draw &&& nn)).countDraw)

end Sys2Proof.Machine
end

