-- ==== Sys2Proof/Machine/RegisterOps.lean ====
section
/-! DEFINITION. The register and ALU instructions (R140 to R153): 8-bit unsigned, results truncated to 8 bits, operands
read before any write, the flag written last (R23, R140). -/

namespace Sys2Proof.Machine

/-- `LD Vx, byte` (R141). -/
def execLdByte (x : Nibble) (nn : Byte) (s : State) : Host.Outcome State Fault Refusal := .next (s.setV x nn)

/-- `ADD Vx, byte` (R142): modulo 256, VF is not written. -/
def execAddByte (x : Nibble) (nn : Byte) (s : State) : Host.Outcome State Fault Refusal :=
  .next (s.setV x (s.getV x + nn))

/-- `LD Vx, Vy` (R143). -/
def execLdReg (x y : Nibble) (s : State) : Host.Outcome State Fault Refusal := .next (s.setV x (s.getV y))

/-- `OR Vx, Vy` (R144): VF is not reset. -/
def execOrReg (x y : Nibble) (s : State) : Host.Outcome State Fault Refusal :=
  .next (s.setV x (s.getV x ||| s.getV y))

/-- `AND Vx, Vy` (R145): VF is not reset. -/
def execAndReg (x y : Nibble) (s : State) : Host.Outcome State Fault Refusal :=
  .next (s.setV x (s.getV x &&& s.getV y))

/-- `XOR Vx, Vy` (R146): VF is not reset. -/
def execXorReg (x y : Nibble) (s : State) : Host.Outcome State Fault Refusal :=
  .next (s.setV x (s.getV x ^^^ s.getV y))

/-- `ADD Vx, Vy` (R147): VF is the carry out; there is no carry in. -/
def execAddReg (x y : Nibble) (s : State) : Host.Outcome State Fault Refusal :=
  .next (s.setResultFlag x (s.getV x + s.getV y) (carryOut (s.getV x) (s.getV y)))

/-- `SUB Vx, Vy` (R148): Vx − Vy, VF is 1 when no borrow was needed. -/
def execSubReg (x y : Nibble) (s : State) : Host.Outcome State Fault Refusal :=
  .next (s.setResultFlag x (s.getV x - s.getV y) (noBorrow (s.getV x) (s.getV y)))

/-- `SHR Vx, Vy` (R149): zero fill, VF is the bit shifted out. -/
def execShr (x y : Nibble) (s : State) : Host.Outcome State Fault Refusal :=
  .next (s.setResultFlag x (s.shiftSource x y >>> 1) (bitOutRight (s.shiftSource x y)))

/-- `SUBN Vx, Vy` (R150): Vy − Vx, VF is 1 when no borrow was needed. -/
def execSubnReg (x y : Nibble) (s : State) : Host.Outcome State Fault Refusal :=
  .next (s.setResultFlag x (s.getV y - s.getV x) (noBorrow (s.getV y) (s.getV x)))

/-- `SHL Vx, Vy` (R151): zero fill, VF is the bit shifted out. -/
def execShl (x y : Nibble) (s : State) : Host.Outcome State Fault Refusal :=
  .next (s.setResultFlag x (s.shiftSource x y <<< 1) (bitOutLeft (s.shiftSource x y)))

end Sys2Proof.Machine
end

