-- ==== Sys2Proof/Machine/System.lean ====
section
/-! DEFINITION. The system instruction and the Unknown words (R235, R236): reported no-ops. The report is the result of
the cycle (`cycleResult`, HostOps.lean; log entry 4). -/

namespace Sys2Proof.Machine

/-- `SYS addr` (R235): "`report Unknown(w)` and nothing else; `pc` stays A + 2". The operand is ignored. -/
def execSys (_nnn : Addr12) (s : State) : Host.Outcome State Fault Refusal := .next s

/-- A word that selects no operation (R236): no state but the advanced pc changes. -/
def execUnknown (_w : Word) (s : State) : Host.Outcome State Fault Refusal := .next s

/-- A cycle whose fetch is out of range (R65): the fault is taken with `PC` left unchanged. -/
def fetchFault (s : State) : Host.Outcome State Fault Refusal := .next (s.takeFault s.pc .memOutOfRange)

/-- A cycle issued to a faulted core (R246): "the operation changes no state at all". -/
def refusedCycle (s : State) : Host.Outcome State Fault Refusal := .next s

end Sys2Proof.Machine
end

