-- ==== Sys2Proof/Machine/Timers.lean ====
section
/-! DEFINITION. The timer instructions (R225 to R227). The countdown is the host operation `tick` (HostOps.lean). -/

namespace Sys2Proof.Machine

/-- `LD Vx, DT` (R225). -/
def execLdVxDT (x : Nibble) (s : State) : Host.Outcome State Fault Refusal := .next (s.setV x s.dt)

/-- `LD DT, Vx` (R226). -/
def execLdDTVx (x : Nibble) (s : State) : Host.Outcome State Fault Refusal := .next (s.setDT (s.getV x))

/-- `LD ST, Vx` (R227): the request is raised at once if the new `ST` is not 0, and never cleared. -/
def execLdSTVx (x : Nibble) (s : State) : Host.Outcome State Fault Refusal :=
  .next ((s.setST (s.getV x)).requestSound)

end Sys2Proof.Machine
end

