-- ==== Sys2Proof/Machine/Step.lean ====
section
/-! DEFINITION. One step of the machine: the host operation `cycle` (R246, R247). -/

namespace Sys2Proof.Machine

/-- `cycle` (R246, R247): a faulted core changes nothing; a fetch out of range faults; otherwise the word at `PC` is
fetched, the pc advanced by 2, and the decoded operation executed, or the Unknown word reported. -/
def step (s : State) : Host.Outcome State Fault Refusal :=
  if s.fault = .noFault then
    match s.fetch with
    | none => fetchFault s
    | some w =>
      match decodeWord w with
      | some i => exec i s.advance
      | none => execUnknown w s.advance
  else refusedCycle s

/-- `s` with the instruction `w` (its low `nbits` bits, numbered as spec/opcode_table.json numbers them) stored at the
pc, high byte first (R64), as the host's `load` stores a program at 0x200 (R322). A fetch needs an unfaulted core and a
pc of at most 0xFFE: where `s` has neither, both are put at their reset values. Log entry 12. -/
def State.withFetchWord (s : State) (nbits w : Nat) : State :=
  let word : Word := BitVec.ofNat 16 (w % 2 ^ nbits)
  let pc : Word := if s.pc.toNat ≤ 0xFFE then s.pc else 0x200#16
  let t : State := { s with pc := pc, fault := .noFault }
  (t.writeByte pc.toNat (highByte word)).writeByte (pc.toNat + 1) (lowByte word)

end Sys2Proof.Machine
end

