-- ==== Sys2Proof/Machine/HostOps.lean ====
section
/-! DEFINITION. The host operations (R245): `reset`, `load`, `cycle`, `tick`, the key events, the flag clears, the
observers, with the results they return (R248, R323). Each is atomic, and a schedule is any sequence of them (R249,
R255). Log entries 4 and 5. -/

namespace Sys2Proof.Machine

/-! ### Results (R248) -/

/-- What `cycle` returns (R248). -/
inductive CycleResult where
  /-- `OK`: the instruction completed or stalled. -/
  | ok
  /-- `UNKNOWN(w)`: the word was `SYS` or Unknown, skipped as a no-op. -/
  | unknown (w : Word)
  /-- `FATAL(cause, info)`: a fatal fault was raised in this cycle. -/
  | fatal (cause : FaultCode) (info : Nat)
  /-- `REFUSED`: the core was already faulted. -/
  | refused
  deriving DecidableEq, Repr

/-- What `load` returns (R322). -/
inductive LoadResult where
  | ok
  | tooLarge
  deriving DecidableEq, Repr

/-- The `info` of a fault raised by an instruction executed in `s`: the lowest address out of range that it would have
accessed, `max(I, 0x1000)`, for `MemOutOfRange`, and 0 for the stack faults (R281). -/
def faultInfo (s : State) : FaultCode → Nat
  | .memOutOfRange => max s.i.toNat 0x1000
  | .noFault | .stackOverflow | .stackUnderflow => 0

/-- Whether an operation is reported instead of executed: `SYS` alone (R235). -/
def isReported : Instr → Bool
  | .sys _ => true
  | .cls | .ret | .jp _ | .call _ | .seByte _ _ | .sneByte _ _ | .seReg _ _ | .ldByte _ _ | .addByte _ _
  | .ldReg _ _ | .orReg _ _ | .andReg _ _ | .xorReg _ _ | .addReg _ _ | .subReg _ _ | .shr _ _ | .subnReg _ _
  | .shl _ _ | .sneReg _ _ | .ldI _ | .jpV0 _ | .rnd _ _ | .drw _ _ _ | .skp _ | .sknp _ | .ldVxDT _ | .ldVxK _
  | .ldDTVx _ | .ldSTVx _ | .addI _ | .ldF _ | .ldB _ | .storeRegs _ | .loadRegs _ => false

/-- The result of an executed operation: `UNKNOWN(w)` if it is reported, `FATAL` if `FAULT` is set after it, else `OK`
(R247, R248). -/
def executedResult (w : Word) (i : Instr) (s : State) : CycleResult :=
  if isReported i then .unknown w
  else
    match exec i s with
    | .next t => if t.fault = .noFault then .ok else .fatal t.fault (faultInfo s t.fault)
    | .fault _ => .ok
    | .refused _ => .ok

/-- What a `cycle` issued in state `s` returns (R246 to R248). It is an output of the step, not state (R8). -/
def cycleResult (s : State) : CycleResult :=
  if s.fault = .noFault then
    match s.fetch with
    | none => .fatal .memOutOfRange (max s.pc.toNat 0x1000)
    | some w =>
      match decodeWord w with
      | some i => executedResult w i s.advance
      | none => .unknown w
  else .refused

/-! ### The operations -/

/-- `reset` (R320): every item of state to its reset value; "It does not touch the configuration or the random
source". -/
def hostReset (s : State) : State := { State.reset with config := s.config, drawCount := s.drawCount }

/-- The bytes of an image stored at ascending addresses from `a`. -/
def storeBytes : Nat → List Byte → State → State
  | _, [], s => s
  | a, b :: rest, s => storeBytes (a + 1) rest (s.writeByte a b)

/-- `load(bytes)` (R322, R323): an image of more than 3584 bytes is rejected with nothing written; otherwise byte i goes
to 0x200 + i and nothing else changes. -/
def hostLoad (image : List Byte) (s : State) : State :=
  if 3584 < image.length then s else storeBytes 0x200 image s

/-- The result of `load` (R322, R323). -/
def loadResult (image : List Byte) : LoadResult := if 3584 < image.length then .tooLarge else .ok

/-- `cycle` on the state (R247). A step always answers a next state here (see `step`). -/
def hostCycle (s : State) : State :=
  match step s with
  | .next t => t
  | .fault _ => s
  | .refused _ => s

/-- A timer one step nearer to zero, "never below zero" (R29, R292). -/
def countDown (b : Byte) : Byte := if b = 0#8 then b else b - 1#8

/-- `tick` (R292): both timers one step lower, then the sound request if `ST` is still not 0. -/
def tick (s : State) : State := ((s.setDT (countDown s.dt)).setST (countDown s.st)).requestSound

/-- `key_down(k)` (R250): the flag is set; during a stall the press ends it and becomes the pending key. -/
def keyDown (k : Nibble) (s : State) : State :=
  if s.waiting then (((s.setKey k true).setWaiting false).setLastKey k).setKeyPending true else s.setKey k true

/-- `key_up(k)` (R251): "`KEYS[k] <- 0`, and nothing else". -/
def keyUp (k : Nibble) (s : State) : State := s.setKey k false

/-- `clear_draw` (R252). -/
def clearDraw (s : State) : State := s.setDrawReq false

/-- `clear_sound` (R253). -/
def clearSound (s : State) : State := s.setSoundReq false

/-! ### Observers (R254) -/

/-- What the host may read, without any effect on the state (R254). -/
structure Observation where
  pc : Word
  i : Word
  sp : Fin 17
  v : Vector Byte 16
  dt : Byte
  st : Byte
  disp : Display
  keys : Vector Bool 16
  drawReq : Bool
  soundReq : Bool
  waiting : Bool
  lastKeyValid : Bool
  lastKey : Nibble
  deriving DecidableEq, Repr

/-- The observers' values in state `s`. -/
def observe (s : State) : Observation where
  pc := s.pc
  i := s.i
  sp := s.sp
  v := s.v
  dt := s.dt
  st := s.st
  disp := s.disp
  keys := s.keys
  drawReq := s.drawReq
  soundReq := s.soundReq
  waiting := s.waiting
  lastKeyValid := s.lastKeyValid
  lastKey := s.lastKey

/-! ### Schedules -/

/-- An operation of the host (R245). -/
inductive HostOp where
  | reset
  | load (image : List Byte)
  | cycle
  | tick
  | keyDown (k : Nibble)
  | keyUp (k : Nibble)
  | clearDraw
  | clearSound
  | observe
  deriving DecidableEq, Repr

/-- What an operation returns. -/
inductive HostResult where
  | none
  | load (r : LoadResult)
  | cycle (r : CycleResult)
  | observed (o : Observation)
  deriving DecidableEq, Repr

/-- The state after an operation, which takes effect whole (R245, R256). -/
def perform : HostOp → State → State
  | .reset, s => hostReset s
  | .load image, s => hostLoad image s
  | .cycle, s => hostCycle s
  | .tick, s => tick s
  | .keyDown k, s => keyDown k s
  | .keyUp k, s => keyUp k s
  | .clearDraw, s => clearDraw s
  | .clearSound, s => clearSound s
  | .observe, s => s

/-- What an operation issued in state `s` returns. -/
def performResult : HostOp → State → HostResult
  | .reset, _ => .none
  | .load image, _ => .load (loadResult image)
  | .cycle, s => .cycle (cycleResult s)
  | .tick, _ => .none
  | .keyDown _, _ => .none
  | .keyUp _, _ => .none
  | .clearDraw, _ => .none
  | .clearSound, _ => .none
  | .observe, s => .observed (observe s)

/-- The operations of a schedule performed in the order issued (R255). -/
def runSchedule : List HostOp → State → State
  | [], s => s
  | op :: rest, s => runSchedule rest (perform op s)

/-- The results of a schedule, in order. -/
def scheduleResults : List HostOp → State → List HostResult
  | [], _ => []
  | op :: rest, s => performResult op s :: scheduleResults rest (perform op s)

end Sys2Proof.Machine
end

