-- ==== Sys2Proof/Safety.lean ====
section
/-! DEFINITION. What counts as a safe run, and the invariants of the machine, in the terms the statements use. -/

namespace Sys2Proof.Machine

/-- The core is faulted: `FAULT ≠ 0` (R284). -/
abbrev State.Faulted (s : State) : Prop := s.fault ≠ .noFault

/-- The core is stalled on a key wait: `WAITING = 1` (R35). -/
abbrev State.Stalled (s : State) : Prop := s.waiting = true

/-- A run is safe when no cycle of its schedule raised a fatal fault or was refused (R284): "A faulted state is never a
final state of a successful run". -/
def SafeRun (ops : List HostOp) (s : State) : Prop :=
  ∀ r ∈ scheduleResults ops s, r ≠ .cycle .refused ∧ ∀ cause info, r ≠ .cycle (.fatal cause info)

/-- The memory is in canonical form: addresses rising, inside 0x000..0xFFF, no cell equal to its reset contents. -/
abbrev State.MemCanonical (s : State) : Prop := Memory.wf s.config s.mem = true

/-- "the largest value any rule writes is ... 0x10FE" (R25), and a pushed return address is at most 0x1000 (R123). -/
def State.PcBounded (s : State) : Prop :=
  s.pc.toNat ≤ 0x10FE ∧ ∀ (n : Nat) (h : n < 16), (s.stack[n]'h).toNat ≤ 0x1000

/-- The word at the pc is an `LD Vx, K` (R38 d). -/
def State.AtKeyWait (s : State) : Prop := ∃ w x, s.fetch = some w ∧ decodeWord w = some (.ldVxK x)

/-- The invariants (a) to (d) of the key-wait state (R38). -/
structure State.KeyWaitInv (s : State) : Prop where
  noKeyDown : s.waiting = true → ∀ k : Nibble, s.keyDownFlag k = false
  notPending : s.waiting = true → s.keyPending = false
  lastValid : s.keyPending = true → s.lastKeyValid = true
  atKeyWait : s.waiting = true ∨ s.keyPending = true → s.AtKeyWait

/-- A host operation that may follow state `s` in the sense of R38: "provided the host does not `load` over the waiting
instruction" (R333). -/
def HostOp.Considerate (op : HostOp) (s : State) : Prop :=
  match op with
  | .load _ => s.waiting = false ∧ s.keyPending = false
  | .reset | .cycle | .tick | .keyDown _ | .keyUp _ | .clearDraw | .clearSound | .observe => True

/-- The general registers an instruction may write (R22, R140, R176): its destination x, VF for the flag writers, V0 to
Vx for the block load. -/
def mayWrite (r : Nibble) : Instr → Bool
  | .ldByte x _ | .addByte x _ | .ldReg x _ | .orReg x _ | .andReg x _ | .xorReg x _ | .rnd x _ | .ldVxDT x
  | .ldVxK x => r == x
  | .addReg x _ | .subReg x _ | .subnReg x _ | .shr x _ | .shl x _ => r == x || r == 15#4
  | .drw _ _ _ => r == 15#4
  | .loadRegs x => decide (r.toNat ≤ x.toNat)
  | .sys _ | .cls | .ret | .jp _ | .call _ | .seByte _ _ | .sneByte _ _ | .seReg _ _ | .sneReg _ _ | .ldI _
  | .jpV0 _ | .skp _ | .sknp _ | .ldDTVx _ | .ldSTVx _ | .addI _ | .ldF _ | .ldB _ | .storeRegs _ => false

/-- The table of the fatal faults of R281, without its fetch row: the cause and the `info` of the fault that an
instruction raises in state `s`, if it raises one. -/
def faultRow (i : Instr) (s : State) : Option (FaultCode × Nat) :=
  match i with
  | .call _ => if s.sp.val = 16 then some (.stackOverflow, 0) else none
  | .ret => if s.sp.val = 0 then some (.stackUnderflow, 0) else none
  | .drw _ _ n =>
    if 0 < n.toNat ∧ 0xFFF < s.i.toNat + n.toNat - 1 then some (.memOutOfRange, max s.i.toNat 0x1000) else none
  | .ldB _ => if 0xFFF < s.i.toNat + 2 then some (.memOutOfRange, max s.i.toNat 0x1000) else none
  | .storeRegs x => if 0xFFF < s.i.toNat + x.toNat then some (.memOutOfRange, max s.i.toNat 0x1000) else none
  | .loadRegs x => if 0xFFF < s.i.toNat + x.toNat then some (.memOutOfRange, max s.i.toNat 0x1000) else none
  | .sys _ | .cls | .jp _ | .seByte _ _ | .sneByte _ _ | .seReg _ _ | .ldByte _ _ | .addByte _ _ | .ldReg _ _
  | .orReg _ _ | .andReg _ _ | .xorReg _ _ | .addReg _ _ | .subReg _ _ | .shr _ _ | .subnReg _ _ | .shl _ _
  | .sneReg _ _ | .ldI _ | .jpV0 _ | .rnd _ _ | .skp _ | .sknp _ | .ldVxDT _ | .ldVxK _ | .ldDTVx _ | .ldSTVx _
  | .addI _ | .ldF _ => none

/-- Column c of the wrapped image of the first `n` columns of a row byte that starts at column `x0` (R195, R198 c): the
sprite column that falls on c, counted from `x0` modulo 64, is among them and its bit is 1. -/
def colImage (row : Byte) (x0 n : Nat) (c : Fin 64) : Bool :=
  decide ((c.val + 64 - x0) % 64 < n) && spriteBit row ((c.val + 64 - x0) % 64)

/-- Pixel (r, c) of "the wrapped image of the sprite" of `n` rows at `I` (R198 c), started at column `x0` and row `y0`:
the sprite row that falls on r, counted from `y0` modulo 32, is among the n and its image covers c. -/
def State.spriteImage (s : State) (x0 y0 n : Nat) (r : Fin 32) (c : Fin 64) : Bool :=
  decide ((r.val + 32 - y0) % 32 < n) && colImage (s.readByte (s.i.toNat + (r.val + 32 - y0) % 32)) x0 8 c

end Sys2Proof.Machine
end

