-- ==== Sys2Proof/Certificates/Slice0/Obligations.lean ====
section
/-! DEFINITION. The statements for the provers. Every one is about all states and operands unless it says otherwise. A
statement that rests on a clause the spec marks as its own decision, or on a choice of the model, says so. -/

open Sys2Proof Sys2Proof.Machine

/-! ### Encoding -/

/-- Every well-formed instruction, laid out high byte first, decodes to itself with every operand at its value, and
nothing is left over (R104 inverts R95; the opcode numbers are general knowledge, G1). -/
def Obligations.DecodeOfEncodeIsIdentity : Prop :=
  ∀ i : Instr, i.WellFormed → decode (encodeBytes i) = .instr i []

/-- The decoder by nibbles (R94) and the opcode table by mask and match (R95, R96) agree on all 65536 words. -/
def Obligations.DecoderAgreesWithOpcodeTable : Prop :=
  ∀ w : Word, decodeWord w = decodeByTable w

/-- The Unknown words are exactly those of R98. -/
def Obligations.UnknownWordsAreThoseOfTheSpec : Prop :=
  ∀ w : Word, decodeWord w = none ↔
    (fieldOp w = 0x8#4 ∧ fieldN w ∈ [0x8#4, 0x9#4, 0xA#4, 0xB#4, 0xC#4, 0xD#4, 0xF#4]) ∨
    (fieldOp w = 0xE#4 ∧ fieldNN w ∉ [0x9E#8, 0xA1#8]) ∨
    (fieldOp w = 0xF#4 ∧
      fieldNN w ∉ [0x07#8, 0x0A#8, 0x15#8, 0x18#8, 0x1E#8, 0x29#8, 0x33#8, 0x55#8, 0x65#8])

/-- A decoded instruction is well-formed, and encoding it gives the word back, but for the last nibble of groups 5 and
9, which the decoder does not examine and the encoder writes as 0 (R97, the spec's decision D5). -/
def Obligations.EncodeOfDecodeIsCanonicalWord : Prop :=
  ∀ (w : Word) (i : Instr), decodeWord w = some i →
    i.WellFormed ∧ encode i = if fieldOp w = 0x5#4 ∨ fieldOp w = 0x9#4 then w &&& 0xFFF0#16 else w

/-- The six examples of R104 and words of groups 0, 5, 8, C and E decode as the spec says. That 0x0123 is `SYS` (R96) is
the spec's decision D4, and that the last nibble of 0x5127 is not examined (R97) its decision D5; the opcode numbers but
00E0 are general knowledge of the spec, G1. -/
def Obligations.ExampleWordsDecodeAsStated : Prop :=
  decodeWord 0x00E0#16 = some .cls ∧ decodeWord 0x2300#16 = some (.call 0x300#12) ∧
  decodeWord 0x637F#16 = some (.ldByte 3#4 0x7F#8) ∧ decodeWord 0x8104#16 = some (.addReg 1#4 0#4) ∧
  decodeWord 0xDAB5#16 = some (.drw 0xA#4 0xB#4 5#4) ∧ decodeWord 0xF10A#16 = some (.ldVxK 1#4) ∧
  decodeWord 0x0123#16 = some (.sys 0x123#12) ∧ decodeWord 0xC30F#16 = some (.rnd 3#4 0x0F#8) ∧
  decodeWord 0xE19E#16 = some (.skp 1#4) ∧ decodeWord 0x5127#16 = some (.seReg 1#4 2#4) ∧
  decodeWord 0x8008#16 = none

/-! ### The cycle -/

/-- The fetch reads two bytes high byte first (R64) at any pc up to 0xFFE, odd ones included (R66, the spec's decision
D21), and nothing above it (R65, the spec's decision D20). -/
def Obligations.FetchReadsBigEndianWord : Prop :=
  ∀ s : State,
    (s.pc.toNat ≤ 0xFFE → ∃ w, s.fetch = some w ∧
      w.toNat = 256 * (s.readByte s.pc.toNat).toNat + (s.readByte (s.pc.toNat + 1)).toNat) ∧
    (0xFFE < s.pc.toNat → s.fetch = none)

/-- A word stored at the pc is what the next fetch reads (R75, the spec's decision D22), and the host's placing of a
word is such a store (log entry 12). -/
def Obligations.StoredWordIsFetchedNext : Prop :=
  ∀ (s : State) (nbits w : Nat), s.MemCanonical →
    (s.pc.toNat ≤ 0xFFE → ∀ hi lo : Byte,
      ((s.writeByte s.pc.toNat hi).writeByte (s.pc.toNat + 1) lo).fetch = some (joinBytes hi lo)) ∧
    (s.withFetchWord nbits w).fetch = some (BitVec.ofNat 16 (w % 2 ^ nbits)) ∧
    (s.withFetchWord nbits w).fault = .noFault

/-- When the word at the pc decodes to an instruction, a step is that instruction's `exec` in the state whose pc has
been advanced by 2, and the instruction is well-formed (R247). -/
def Obligations.StepRunsTheDecodedInstruction : Prop :=
  ∀ (s : State) (i : Instr), s.fault = .noFault → s.pc.toNat ≤ 0xFFE →
    decodeWord (joinBytes (s.readByte s.pc.toNat) (s.readByte (s.pc.toNat + 1))) = some i →
    i.WellFormed ∧ step s = exec i { s with pc := s.pc + 2#16 }

/-- A faulted core refuses to cycle and changes nothing; `FAULT` stays under every operation but `reset`, which clears it
and makes `cycle` work again (R246). -/
def Obligations.FaultedCoreRefusesUntilReset : Prop :=
  ∀ s : State, s.Faulted →
    step s = .next s ∧ cycleResult s = .refused ∧
    (∀ op : HostOp, op ≠ .reset → (perform op s).fault = s.fault) ∧
    (perform .reset s).fault = .noFault ∧ cycleResult (perform .reset s) ≠ .refused

/-- A fetch above 0xFFE takes `MemOutOfRange` with the pc left unchanged (R65, the spec's decision D20). -/
def Obligations.FetchAboveMemoryFaults : Prop :=
  ∀ s : State, s.fault = .noFault → 0xFFE < s.pc.toNat →
    step s = .next { s with fault := .memOutOfRange } ∧
    cycleResult s = .fatal .memOutOfRange (max s.pc.toNat 0x1000)

/-- An Unknown word changes nothing but the pc and is reported (R236). -/
def Obligations.UnknownWordIsReportedNoOp : Prop :=
  ∀ (s : State) (w : Word), s.fault = .noFault → s.fetch = some w → decodeWord w = none →
    step s = .next { s with pc := s.pc + 2#16 } ∧ cycleResult s = .unknown w

/-- `SYS` has no effect: the pc stays advanced, and the cycle reports the word (R235; the spec's decision D4). -/
def Obligations.SysIsReportedNoOp : Prop :=
  (∀ (nnn : Addr12) (s : State), exec (.sys nnn) s = .next s) ∧
  ∀ (s : State) (w : Word) (nnn : Addr12), s.fault = .noFault → s.fetch = some w →
    decodeWord w = some (.sys nnn) → cycleResult s = .unknown w

/-- No cycle is without an answer: every instruction in every state, and so every step, gives a next state (R247: a
cycle completes, stalls, is reported, faults into a state, or is refused without a change; log entry 3). -/
def Obligations.EveryCycleAnswersANextState : Prop :=
  (∀ (i : Instr) (s : State), ∃ t, exec i s = .next t) ∧ ∀ s : State, ∃ t, step s = .next t

/-- The fault table of R281 decides every cycle that fetches an instruction: where it names a fault, the state after is
the state before with `FAULT` alone set and the result is `FATAL` (R284, R285; the spec's decisions D18, D19); where it
names none, `FAULT` stays clear and the result is not `FATAL`. -/
def Obligations.FaultTableDecidesEveryCycle : Prop :=
  ∀ (s : State) (w : Word) (i : Instr), s.fault = .noFault → s.fetch = some w → decodeWord w = some i →
    (∀ cause info, faultRow i s = some (cause, info) →
      step s = .next { s with fault := cause } ∧ cycleResult s = .fatal cause info) ∧
    (faultRow i s = none →
      (∃ t, step s = .next t ∧ t.fault = .noFault) ∧ ∀ cause info, cycleResult s ≠ .fatal cause info)

/-! ### Reset, load, tick, key events, flag clears -/

/-- `reset` leaves every item of state at its reset value, in every state and twice as once, and leaves the
configuration and the random source, which are fields of the model's own (log entries 1 and 2), as they were (R45, R320;
the spec's decision D26). `State.reset` is such a state (R321, D2). -/
def Obligations.ResetLeavesPowerOnState : Prop :=
  ∀ s r : State, r = perform .reset s ∨ (r = State.reset ∧ s = State.reset) →
    (∀ a : Nat, r.readByte a = resetByte s.config a) ∧
    (∀ k : Nat, ∀ h : k < 80, r.readByte (s.config.fontBase.val + k) = s.config.font[k]'h) ∧
    (∀ a : Nat, a < s.config.fontBase.val ∨ s.config.fontBase.val + 80 ≤ a → r.readByte a = 0#8) ∧
    (∀ x : Nibble, r.getV x = 0#8) ∧ r.i = 0#16 ∧ r.pc = 0x200#16 ∧
    (∀ (n : Nat) (h : n < 16), r.stack[n]'h = 0#16) ∧ r.sp.val = 0 ∧ r.dt = 0#8 ∧ r.st = 0#8 ∧
    (∀ (a : Fin 32) (c : Fin 64), r.disp.pixel a c = false) ∧ (∀ k : Nibble, r.keyDownFlag k = false) ∧
    r.waiting = false ∧ r.lastKeyValid = false ∧ r.lastKey = 0#4 ∧ r.keyPending = false ∧
    r.drawReq = false ∧ r.soundReq = false ∧ r.fault = .noFault ∧
    r.config = s.config ∧ r.drawCount = s.drawCount ∧ perform .reset r = r

/-- `load` of at most 3584 bytes puts byte i at 0x200 + i and changes nothing else; of more it changes nothing
(R322, R323). -/
def Obligations.LoadWritesTheImageOrNothing : Prop :=
  ∀ (image : List Byte) (s : State), s.MemCanonical →
    (image.length ≤ 3584 →
      performResult (.load image) s = .load .ok ∧
      (∀ a : Nat, (perform (.load image) s).readByte a =
        if 0x200 ≤ a ∧ a < 0x200 + image.length then image[a - 0x200]?.getD 0#8 else s.readByte a) ∧
      { perform (.load image) s with mem := s.mem } = s) ∧
    (3584 < image.length →
      performResult (.load image) s = .load .tooLarge ∧ perform (.load image) s = s)

/-- `tick` takes one step off each timer that is not 0, raises the sound request if `ST` is not 0 after it, and touches
nothing else (R292; when the request is sampled is the spec's decision D23). -/
def Obligations.TickStepsBothTimersDown : Prop :=
  ∀ s : State,
    (perform .tick s).dt.toNat = s.dt.toNat - 1 ∧ (perform .tick s).st.toNat = s.st.toNat - 1 ∧
    ((perform .tick s).soundReq = true ↔ s.soundReq = true ∨ 1 < s.st.toNat) ∧
    { perform .tick s with dt := s.dt, st := s.st, soundReq := s.soundReq } = s

/-- After n ticks a timer set to N holds N − n, and 0 from the N-th tick on (R292, the source's testable property T5). -/
def Obligations.TimersReachZeroAndStay : Prop :=
  ∀ (n : Nat) (s : State),
    (runSchedule (List.replicate n .tick) s).dt.toNat = s.dt.toNat - n ∧
    (runSchedule (List.replicate n .tick) s).st.toNat = s.st.toNat - n

/-- `key_down` sets its flag; during a stall it ends the stall and becomes the pending last key; outside a stall it does
nothing else (R250; the pending bit is the spec's decision D16). -/
def Obligations.KeyDownSetsItsFlagAndEndsAStall : Prop :=
  ∀ (k : Nibble) (s : State),
    (∀ j : Nibble, (perform (.keyDown k) s).keyDownFlag j = if j = k then true else s.keyDownFlag j) ∧
    (s.waiting = true →
      (perform (.keyDown k) s).waiting = false ∧ (perform (.keyDown k) s).lastKey = k ∧
      (perform (.keyDown k) s).lastKeyValid = true ∧ (perform (.keyDown k) s).keyPending = true ∧
      { perform (.keyDown k) s with keys := s.keys, waiting := s.waiting, lastKey := s.lastKey,
                                    lastKeyValid := s.lastKeyValid, keyPending := s.keyPending } = s) ∧
    (s.waiting = false → { perform (.keyDown k) s with keys := s.keys } = s)

/-- `key_up` clears its flag and nothing else (R251). -/
def Obligations.KeyUpClearsItsFlagOnly : Prop :=
  ∀ (k : Nibble) (s : State),
    (∀ j : Nibble, (perform (.keyUp k) s).keyDownFlag j = if j = k then false else s.keyDownFlag j) ∧
    { perform (.keyUp k) s with keys := s.keys } = s

/-- `clear_draw` and `clear_sound` clear their flag and nothing else (R252, R253); no step clears either (R39, R40,
R237), and a tick that leaves `ST` nonzero sets the sound flag again (R253, R40). That both are latches which the core
sets and only the host and `reset` clear is the spec's decision D23. -/
def Obligations.OnlyTheHostClearsRequests : Prop :=
  ∀ s : State,
    perform .clearDraw s = { s with drawReq := false } ∧ perform .clearSound s = { s with soundReq := false } ∧
    (∀ t, step s = .next t →
      (s.drawReq = true → t.drawReq = true) ∧ (s.soundReq = true → t.soundReq = true)) ∧
    ((perform .tick s).st ≠ 0#8 → (perform .tick s).soundReq = true)

/-! ### Invariants -/

/-- Every step keeps the memory in canonical form (log entry 8). -/
def Obligations.StepKeepsMemoryCanonical : Prop :=
  ∀ s t : State, s.MemCanonical → step s = .next t → t.MemCanonical

/-- Every step keeps the pc at or below 0x10FE and every stack cell at or below 0x1000 (R25, R123; the spec derives
them). -/
def Obligations.StepKeepsPcBounded : Prop :=
  ∀ s t : State, s.PcBounded → step s = .next t → t.PcBounded

/-- Every step keeps the invariants (a) to (d) of the key-wait state (R38, which the spec derives). -/
def Obligations.StepKeepsKeyWaitState : Prop :=
  ∀ s t : State, s.KeyWaitInv → step s = .next t → t.KeyWaitInv

/-- The reset state meets every invariant: the canonical form of its memory, which is the model's own (log entry 8, a
DESIGN CHOICE), the bounds of the pc and the stack (R25, R123), and the key-wait state (R38), both of which the spec
derives, at the reset values of R45. -/
def Obligations.ResetMeetsTheInvariants : Prop :=
  State.reset.MemCanonical ∧ State.reset.PcBounded ∧ State.reset.KeyWaitInv

/-- Every host operation keeps every invariant: the canonical form of the memory, which is the model's own (log entry 8,
a DESIGN CHOICE); the bounds of the pc and the stack (R25, R123, which the spec derives); the key-wait state (R38), which
`load` keeps where the core is neither stalled nor key-pending (R333, the spec's decision D27). -/
def Obligations.HostOperationsKeepTheInvariants : Prop :=
  ∀ (op : HostOp) (s : State),
    (s.MemCanonical → (perform op s).MemCanonical) ∧ (s.PcBounded → (perform op s).PcBounded) ∧
    (op.Considerate s → s.KeyWaitInv → (perform op s).KeyWaitInv)

/-! ### What instructions leave alone -/

/-- No instruction writes the keypad, the last-key slot or the configuration, or clears a request flag (R34, R36, R212,
R39, R40, R237; a clause of D16 says otherwise of the last key: log entry 10). That the requests are latches is the
spec's decision D23. The configuration is a field of the model's own (log entry 1, a DESIGN CHOICE), unchanged because R6
and R8 make it a parameter. -/
def Obligations.NoInstructionWritesHostState : Prop :=
  ∀ (i : Instr) (s t : State), exec i s = .next t →
    t.keys = s.keys ∧ t.lastKey = s.lastKey ∧ t.lastKeyValid = s.lastKeyValid ∧ t.config = s.config ∧
    (s.drawReq = true → t.drawReq = true) ∧ (s.soundReq = true → t.soundReq = true)

/-- Every item of state outside the register file is written by the instructions the spec names for it alone: the stack
by `CALL`; `SP` by `CALL` and `RET`; the display and its request by `CLS` and `DRW`; memory by `LD B` and `LD [I]`; `I`
by `LD I`, `ADD I`, `LD F` and, under `INDEX_INCREMENT`, the block moves; the timers by `LD DT` and `LD ST`; the key-wait
bits by `LD Vx, K`; `FAULT` by `CALL`, `RET`, `DRW`, `LD B` and the block moves; the pc by the jumps, `CALL`, `RET`, the
six skips, `LD Vx, K` and an instruction that faults; the keypad and the last-key slot by none (R24, R26 to R31, R34 to
R37, R40, R42, R67, R281, R284; the last key: log entry 10). A random byte is drawn by `RND` (R190); the count of draws
is the model's own field (log entry 2, a DESIGN CHOICE). -/
def Obligations.OnlyNamedInstructionsWriteEachItem : Prop :=
  ∀ (i : Instr) (s t : State), exec i s = .next t →
    ((∀ n, i ≠ .call n) → t.stack = s.stack) ∧
    ((∀ n, i ≠ .call n) → i ≠ .ret → t.sp = s.sp) ∧
    (i ≠ .cls → (∀ x y n, i ≠ .drw x y n) → t.disp = s.disp ∧ t.drawReq = s.drawReq) ∧
    ((∀ x, i ≠ .ldB x ∧ i ≠ .storeRegs x) → t.mem = s.mem ∧ ∀ a, t.readByte a = s.readByte a) ∧
    ((∀ n, i ≠ .ldI n) → (∀ x, i ≠ .addI x ∧ i ≠ .ldF x) →
      s.config.indexIncrement = false ∨ (∀ x, i ≠ .storeRegs x ∧ i ≠ .loadRegs x) → t.i = s.i) ∧
    ((∀ x, i ≠ .ldDTVx x) → t.dt = s.dt) ∧
    ((∀ x, i ≠ .ldSTVx x) → t.st = s.st ∧ t.soundReq = s.soundReq) ∧
    ((∀ x, i ≠ .ldVxK x) → t.waiting = s.waiting ∧ t.keyPending = s.keyPending) ∧
    ((∀ n, i ≠ .call n) → i ≠ .ret → (∀ x y n, i ≠ .drw x y n) →
      (∀ x, i ≠ .ldB x ∧ i ≠ .storeRegs x ∧ i ≠ .loadRegs x) → t.fault = s.fault) ∧
    ((∀ n, i ≠ .jp n ∧ i ≠ .jpV0 n ∧ i ≠ .call n) → i ≠ .ret → (∀ x nn, i ≠ .seByte x nn ∧ i ≠ .sneByte x nn) →
      (∀ x y, i ≠ .seReg x y ∧ i ≠ .sneReg x y) → (∀ x, i ≠ .skp x ∧ i ≠ .sknp x ∧ i ≠ .ldVxK x) →
      faultRow i s = none → t.pc = s.pc) ∧
    (t.keys = s.keys ∧ t.lastKey = s.lastKey ∧ t.lastKeyValid = s.lastKeyValid) ∧
    ((∀ x nn, i ≠ .rnd x nn) → t.drawCount = s.drawCount)

/-- A general register, VF among them, is changed only by an instruction that names it as its destination, by a flag
writer where it is VF, and by the block load where it is at most Vx (R22, R140, R176). -/
def Obligations.RegistersChangeOnlyAsNamed : Prop :=
  ∀ (i : Instr) (s t : State) (r : Nibble), exec i s = .next t → mayWrite r i = false → t.getV r = s.getV r

/-! ### Control flow -/

/-- `JP addr` (R121). -/
def Obligations.JumpReplacesThePc : Prop :=
  ∀ (nnn : Addr12) (s : State), ∃ t, exec (.jp nnn) s = .next t ∧ t.pc.toNat = nnn.toNat ∧ { t with pc := s.pc } = s

/-- `JP V0, addr`: the sum is at most 0x10FE and not reduced (R129, the spec's decision D9). -/
def Obligations.JumpWithOffsetAddsV0 : Prop :=
  ∀ (nnn : Addr12) (s : State), ∃ t, exec (.jpV0 nnn) s = .next t ∧
    t.pc.toNat = nnn.toNat + (s.getV 0#4).toNat ∧ { t with pc := s.pc } = s

/-- `CALL addr`: the pc on entry, A + 2, is pushed; a full stack faults with nothing pushed (R122). -/
def Obligations.CallPushesTheReturnAddress : Prop :=
  ∀ (nnn : Addr12) (s : State),
    (∀ h : s.sp.val < 16, ∃ t, exec (.call nnn) s = .next t ∧ t.stack[s.sp.val]'h = s.pc ∧
      (∀ (n : Nat) (hn : n < 16), n ≠ s.sp.val → t.stack[n]'hn = s.stack[n]'hn) ∧
      t.sp.val = s.sp.val + 1 ∧ t.pc.toNat = nnn.toNat ∧
      { t with stack := s.stack, sp := s.sp, pc := s.pc } = s) ∧
    (s.sp.val = 16 → exec (.call nnn) s = .next { s with pc := s.pc - 2#16, fault := .stackOverflow })

/-- `RET`: the last pushed address becomes the pc and keeps its cell; an empty stack faults (R123). -/
def Obligations.ReturnPopsTheReturnAddress : Prop :=
  ∀ s : State,
    (∀ (n : Nat) (hn : n < 16), s.sp.val = n + 1 →
      ∃ t, exec .ret s = .next t ∧ t.pc = s.stack[n]'hn ∧ t.sp.val = n ∧ { t with pc := s.pc, sp := s.sp } = s) ∧
    (s.sp.val = 0 → exec .ret s = .next { s with pc := s.pc - 2#16, fault := .stackUnderflow })

/-- A `RET` after a `CALL`, wherever the subroutine's `RET` stands, resumes exactly at the instruction following the
call, with the stack as deep as before and every cell of it but the pushed one as before (R122, R123; the source's
testable property T4). -/
def Obligations.ReturnAfterCallResumesAfterIt : Prop :=
  ∀ (nnn : Addr12) (retPc : Word) (s : State), s.sp.val < 16 →
    ∃ t u, exec (.call nnn) s = .next t ∧ exec .ret { t with pc := retPc } = .next u ∧
      u.pc = s.pc ∧ (∀ (n : Nat) (hn : n < 16), n ≠ s.sp.val → u.stack[n]'hn = s.stack[n]'hn) ∧
      { u with stack := s.stack } = s

/-- The four register skips add 2 to the advanced pc when their condition holds, and do nothing else (R124 to R127; what
they compare is general knowledge of the spec, G12). -/
def Obligations.RegisterSkipsAddTwo : Prop :=
  ∀ (x y : Nibble) (nn : Byte) (s : State),
    exec (.seByte x nn) s = .next { s with pc := if s.getV x = nn then s.pc + 2#16 else s.pc } ∧
    exec (.sneByte x nn) s = .next { s with pc := if s.getV x ≠ nn then s.pc + 2#16 else s.pc } ∧
    exec (.seReg x y) s = .next { s with pc := if s.getV x = s.getV y then s.pc + 2#16 else s.pc } ∧
    exec (.sneReg x y) s = .next { s with pc := if s.getV x ≠ s.getV y then s.pc + 2#16 else s.pc }

/-- `SKP` and `SKNP` test the key that the low nibble of V[x] names (R210, R211; the masking is the spec's decision
D15). -/
def Obligations.KeySkipsTestTheKeyFlag : Prop :=
  ∀ (x k : Nibble) (s : State), k.toNat = (s.getV x).toNat % 16 →
    exec (.skp x) s = .next { s with pc := if s.keyDownFlag k = true then s.pc + 2#16 else s.pc } ∧
    exec (.sknp x) s = .next { s with pc := if s.keyDownFlag k = false then s.pc + 2#16 else s.pc }

/-! ### Registers and arithmetic -/

/-- `LD Vx, byte` and `LD Vx, Vy` write V[x], VF included, and nothing else (R141, R143). -/
def Obligations.LoadsWriteTheirDestination : Prop :=
  ∀ (x y : Nibble) (nn : Byte) (s : State),
    (∃ t, exec (.ldByte x nn) s = .next t ∧ (∀ r, t.getV r = if r = x then nn else s.getV r) ∧
      { t with v := s.v } = s) ∧
    ∃ t, exec (.ldReg x y) s = .next t ∧ (∀ r, t.getV r = if r = x then s.getV y else s.getV r) ∧
      { t with v := s.v } = s

/-- `ADD Vx, byte` modulo 256, `OR`, `AND`, `XOR` bit by bit: they write V[x] and no flag (R142, R144 to R146; that VF is
not written is the spec's decision D8). -/
def Obligations.FlaglessOperationsWriteTheirDestination : Prop :=
  ∀ (x y : Nibble) (nn : Byte) (s : State),
    (∃ t, exec (.addByte x nn) s = .next t ∧
      (∀ r, (t.getV r).toNat = if r = x then ((s.getV x).toNat + nn.toNat) % 256 else (s.getV r).toNat) ∧
      { t with v := s.v } = s) ∧
    (∃ t, exec (.orReg x y) s = .next t ∧
      (∀ r (k : Nat), (t.getV r).getLsbD k =
        if r = x then (s.getV x).getLsbD k || (s.getV y).getLsbD k else (s.getV r).getLsbD k) ∧
      { t with v := s.v } = s) ∧
    (∃ t, exec (.andReg x y) s = .next t ∧
      (∀ r (k : Nat), (t.getV r).getLsbD k =
        if r = x then (s.getV x).getLsbD k && (s.getV y).getLsbD k else (s.getV r).getLsbD k) ∧
      { t with v := s.v } = s) ∧
    ∃ t, exec (.xorReg x y) s = .next t ∧
      (∀ r (k : Nat), (t.getV r).getLsbD k =
        if r = x then (s.getV x).getLsbD k ^^ (s.getV y).getLsbD k else (s.getV r).getLsbD k) ∧
      { t with v := s.v } = s

/-- `ADD Vx, Vy`: the sum modulo 256 goes to V[x], then the carry to VF, which overwrites it when x = 15 (R147; the
carry's meaning is general knowledge of the spec, G11). -/
def Obligations.AddSetsCarryLast : Prop :=
  ∀ (x y : Nibble) (s : State), ∃ t, exec (.addReg x y) s = .next t ∧
    (∀ r, (t.getV r).toNat =
      if r = 15#4 then (if 255 < (s.getV x).toNat + (s.getV y).toNat then 1 else 0)
      else if r = x then ((s.getV x).toNat + (s.getV y).toNat) % 256 else (s.getV r).toNat) ∧
    { t with v := s.v } = s

/-- `SUB` and `SUBN`: the difference modulo 256 goes to V[x], then 1 to VF if no borrow was needed, else 0 (R148, R150;
the directions and the polarity are general knowledge of the spec, G11 and G6, decision D7). -/
def Obligations.SubtractionsSetNoBorrowLast : Prop :=
  ∀ (x y : Nibble) (s : State),
    (∃ t, exec (.subReg x y) s = .next t ∧
      (∀ r, (t.getV r).toNat =
        if r = 15#4 then (if (s.getV y).toNat ≤ (s.getV x).toNat then 1 else 0)
        else if r = x then ((s.getV x).toNat + 256 - (s.getV y).toNat) % 256 else (s.getV r).toNat) ∧
      { t with v := s.v } = s) ∧
    ∃ t, exec (.subnReg x y) s = .next t ∧
      (∀ r, (t.getV r).toNat =
        if r = 15#4 then (if (s.getV x).toNat ≤ (s.getV y).toNat then 1 else 0)
        else if r = x then ((s.getV y).toNat + 256 - (s.getV x).toNat) % 256 else (s.getV r).toNat) ∧
      { t with v := s.v } = s

/-- `SHR` and `SHL` by one with zero fill: the bit shifted out goes to VF last; the source is V[y] under
`SHIFT_USES_VY` and V[x] otherwise (R149, R151; the parameter is the spec's decision D6). -/
def Obligations.ShiftsSetTheBitShiftedOutLast : Prop :=
  ∀ (x y : Nibble) (s : State) (src : Nat),
    src = (if s.config.shiftUsesVy = true then s.getV y else s.getV x).toNat →
    (∃ t, exec (.shr x y) s = .next t ∧
      (∀ r, (t.getV r).toNat =
        if r = 15#4 then src % 2 else if r = x then src / 2 else (s.getV r).toNat) ∧
      { t with v := s.v } = s) ∧
    ∃ t, exec (.shl x y) s = .next t ∧
      (∀ r, (t.getV r).toNat =
        if r = 15#4 then src / 128 else if r = x then 2 * src % 256 else (s.getV r).toNat) ∧
      { t with v := s.v } = s

/-- `RND Vx, byte`: V[x] is the next free draw AND the mask, so it has a 1 only where the mask has (R191; that the
instruction is an AND is general knowledge of the spec, G13). The draw is a free value and the count of draws is the
model's own field (log entry 2): this holds whatever is drawn. -/
def Obligations.RandomByteIsTheMaskedDraw : Prop :=
  ∀ (x : Nibble) (nn : Byte) (s : State), ∃ t, exec (.rnd x nn) s = .next t ∧
    (∀ r, t.getV r = if r = x then Config.freeDraw s.drawCount &&& nn else s.getV r) ∧
    (∀ k : Nat, nn.getLsbD k = false → (t.getV x).getLsbD k = false) ∧
    t.drawCount = s.drawCount + 1 ∧ { t with v := s.v, drawCount := s.drawCount } = s

/-! ### The index register and memory -/

/-- `LD I, addr` (R170). -/
def Obligations.LoadIndexSetsTheAddress : Prop :=
  ∀ (nnn : Addr12) (s : State), ∃ t, exec (.ldI nnn) s = .next t ∧ t.i.toNat = nnn.toNat ∧ { t with i := s.i } = s

/-- `ADD I, Vx` wraps at 16 bits and writes no flag; `LD F, Vx` sets I to the glyph of the low nibble of V[x] (R171,
R172; the spec's decisions D10, D11). -/
def Obligations.IndexArithmeticWritesOnlyI : Prop :=
  ∀ (x : Nibble) (s : State),
    (∃ t, exec (.addI x) s = .next t ∧ t.i.toNat = (s.i.toNat + (s.getV x).toNat) % 65536 ∧
      { t with i := s.i } = s) ∧
    ∃ t, exec (.ldF x) s = .next t ∧ t.i.toNat = s.config.fontBase.val + 5 * ((s.getV x).toNat % 16) ∧
      { t with i := s.i } = s

/-- `LD B, Vx` stores the hundreds, tens and ones digits at I, I + 1, I + 2 and changes no other byte; out of range it
faults with nothing written (R174; the order is the spec's decision D12). -/
def Obligations.BcdStoresTheThreeDigits : Prop :=
  ∀ (x : Nibble) (s : State), s.MemCanonical →
    (s.i.toNat + 2 ≤ 0xFFF → ∃ t, exec (.ldB x) s = .next t ∧
      (t.readByte s.i.toNat).toNat = (s.getV x).toNat / 100 ∧
      (t.readByte (s.i.toNat + 1)).toNat = (s.getV x).toNat / 10 % 10 ∧
      (t.readByte (s.i.toNat + 2)).toNat = (s.getV x).toNat % 10 ∧
      (∀ a, a < s.i.toNat ∨ s.i.toNat + 2 < a → t.readByte a = s.readByte a) ∧ { t with mem := s.mem } = s) ∧
    (0xFFF < s.i.toNat + 2 → exec (.ldB x) s = .next { s with pc := s.pc - 2#16, fault := .memOutOfRange })

/-- `LD [I], Vx` stores V0 to Vx at I to I + x and changes no other byte, then moves I by x + 1 under
`INDEX_INCREMENT`; out of range it faults with nothing written (R175). -/
def Obligations.BlockStoreWritesV0ToVx : Prop :=
  ∀ (x : Nibble) (s : State), s.MemCanonical →
    (s.i.toNat + x.toNat ≤ 0xFFF → ∃ t, exec (.storeRegs x) s = .next t ∧
      (∀ k : Nibble, k.toNat ≤ x.toNat → t.readByte (s.i.toNat + k.toNat) = s.getV k) ∧
      (∀ a, a < s.i.toNat ∨ s.i.toNat + x.toNat < a → t.readByte a = s.readByte a) ∧
      t.i.toNat = (if s.config.indexIncrement = true then (s.i.toNat + x.toNat + 1) % 65536 else s.i.toNat) ∧
      { t with mem := s.mem, i := s.i } = s) ∧
    (0xFFF < s.i.toNat + x.toNat →
      exec (.storeRegs x) s = .next { s with pc := s.pc - 2#16, fault := .memOutOfRange })

/-- `LD Vx, [I]` loads V0 to Vx from I to I + x, then moves I by x + 1 under `INDEX_INCREMENT`; out of range it faults
with no register changed (R176). -/
def Obligations.BlockLoadReadsV0ToVx : Prop :=
  ∀ (x : Nibble) (s : State),
    (s.i.toNat + x.toNat ≤ 0xFFF → ∃ t, exec (.loadRegs x) s = .next t ∧
      (∀ k : Nibble, t.getV k = if k.toNat ≤ x.toNat then s.readByte (s.i.toNat + k.toNat) else s.getV k) ∧
      t.i.toNat = (if s.config.indexIncrement = true then (s.i.toNat + x.toNat + 1) % 65536 else s.i.toNat) ∧
      { t with v := s.v, i := s.i } = s) ∧
    (0xFFF < s.i.toNat + x.toNat →
      exec (.loadRegs x) s = .next { s with pc := s.pc - 2#16, fault := .memOutOfRange })

/-- Registers stored as a block and loaded from the same address come back, whatever the register file held between
(R175, R176). -/
def Obligations.BlockStoreThenLoadRestores : Prop :=
  ∀ (x : Nibble) (s : State) (between : Vector Byte 16), s.MemCanonical → s.i.toNat + x.toNat ≤ 0xFFF →
    ∃ t u, exec (.storeRegs x) s = .next t ∧ exec (.loadRegs x) { t with i := s.i, v := between } = .next u ∧
      ∀ k : Nibble, k.toNat ≤ x.toNat → u.getV k = s.getV k

/-! ### The display -/

/-- `CLS`: every pixel 0, the draw request set, nothing else (R196). -/
def Obligations.ClearScreenClearsEveryPixel : Prop :=
  ∀ s : State, ∃ t, exec .cls s = .next t ∧ (∀ r c, t.disp.pixel r c = false) ∧ t.drawReq = true ∧
    { t with disp := s.disp, drawReq := s.drawReq } = s

/-- `DRW`: the display after is the display before XORed with the wrapped image of the sprite, VF is 1 exactly when the
two overlap, the draw request is set; a sprite out of range faults with nothing drawn, and one of no rows cannot fault
(R197, R198; bit order and height 0 are the spec's decision D14). -/
def Obligations.DrawXorsTheWrappedSprite : Prop :=
  ∀ (x y n : Nibble) (s : State) (image : Fin 32 → Fin 64 → Bool),
    image = s.spriteImage ((s.getV x).toNat % 64) ((s.getV y).toNat % 32) n.toNat →
    (n.toNat = 0 ∨ s.i.toNat + n.toNat ≤ 0x1000 → ∃ t, exec (.drw x y n) s = .next t ∧
      (∀ r c, t.disp.pixel r c = (s.disp.pixel r c ^^ image r c)) ∧
      (t.getV 15#4 = 1#8 ↔ ∃ r c, image r c = true ∧ s.disp.pixel r c = true) ∧
      (t.getV 15#4 = 0#8 ↔ ∀ r c, image r c = true → s.disp.pixel r c = false) ∧
      (∀ r : Nibble, r ≠ 15#4 → t.getV r = s.getV r) ∧ t.drawReq = true ∧
      { t with disp := s.disp, v := s.v, drawReq := s.drawReq } = s) ∧
    (0 < n.toNat → 0x1000 < s.i.toNat + n.toNat →
      exec (.drw x y n) s = .next { s with pc := s.pc - 2#16, fault := .memOutOfRange })

/-- Two identical draws at the same location restore the display, and VF is 1 after the second exactly when some pixel
under a 1 bit of the sprite was 0 before the first (R198 b, which the spec derives). -/
def Obligations.TwoIdenticalDrawsRestoreTheDisplay : Prop :=
  ∀ (x y n : Nibble) (s t : State), n.toNat = 0 ∨ s.i.toNat + n.toNat ≤ 0x1000 →
    exec (.drw x y n) s = .next t → t.getV x = s.getV x → t.getV y = s.getV y →
    ∃ u, exec (.drw x y n) t = .next u ∧ u.disp = s.disp ∧
      (u.getV 15#4 = 1#8 ↔
        ∃ r c, s.spriteImage ((s.getV x).toNat % 64) ((s.getV y).toNat % 32) n.toNat r c = true ∧
          s.disp.pixel r c = false)

/-! ### The key wait and the timers -/

/-- `LD Vx, K`, its four cases in the order the spec tests them (R212; the least index is the spec's decision D16, and
that `LAST_KEY` is not written is stated by R212 and R36, log entry 10). -/
def Obligations.KeyWaitFollowsItsFourCases : Prop :=
  ∀ (x : Nibble) (s : State),
    (s.keyPending = true → ∃ t, exec (.ldVxK x) s = .next t ∧
      (∀ r, (t.getV r).toNat = if r = x then s.lastKey.toNat else (s.getV r).toNat) ∧ t.keyPending = false ∧
      { t with v := s.v, keyPending := s.keyPending } = s) ∧
    (s.keyPending = false → s.waiting = true → exec (.ldVxK x) s = .next { s with pc := s.pc - 2#16 }) ∧
    (∀ k : Nibble, s.keyPending = false → s.waiting = false → s.keyDownFlag k = true →
      (∀ j : Nibble, j.toNat < k.toNat → s.keyDownFlag j = false) →
      ∃ t, exec (.ldVxK x) s = .next t ∧
        (∀ r, (t.getV r).toNat = if r = x then k.toNat else (s.getV r).toNat) ∧ { t with v := s.v } = s) ∧
    (s.keyPending = false → s.waiting = false → (∀ k : Nibble, s.keyDownFlag k = false) →
      exec (.ldVxK x) s = .next { s with pc := s.pc - 2#16, waiting := true })

/-- A stalled core stays as it is through every cycle; a key press followed by one more cycle, the key released or not
in between, writes the key's index and advances the pc by 2 (R212, R213, the source's testable property T6). -/
def Obligations.KeyPressEndsTheStallInOneCycle : Prop :=
  ∀ (s : State) (w : Word) (x : Nibble), s.KeyWaitInv → s.fault = .noFault → s.waiting = true →
    s.fetch = some w → decodeWord w = some (.ldVxK x) →
    step s = .next s ∧
    ∀ (k : Nibble) (released : Bool), ∃ u,
      step (if released then perform (.keyUp k) (perform (.keyDown k) s) else perform (.keyDown k) s) = .next u ∧
      (∀ r, (u.getV r).toNat = if r = x then k.toNat else (s.getV r).toNat) ∧ u.pc = s.pc + 2#16 ∧
      u.waiting = false ∧ u.keyPending = false ∧ u.lastKey = k ∧ u.lastKeyValid = true

/-- `LD Vx, DT` reads the delay timer and leaves it; `LD DT, Vx` replaces it (R225, R226). -/
def Obligations.DelayTimerIsReadAndWritten : Prop :=
  ∀ (x : Nibble) (s : State),
    (∃ t, exec (.ldVxDT x) s = .next t ∧ (∀ r, t.getV r = if r = x then s.dt else s.getV r) ∧
      { t with v := s.v } = s) ∧
    exec (.ldDTVx x) s = .next { s with dt := s.getV x }

/-- `LD ST, Vx` sets the sound timer and raises the request if it is not 0, never clearing it (R227; when the request is
raised is the spec's decision D23). -/
def Obligations.SoundTimerWriteRequestsSound : Prop :=
  ∀ (x : Nibble) (s : State), ∃ t, exec (.ldSTVx x) s = .next t ∧ t.st = s.getV x ∧
    (t.soundReq = true ↔ s.soundReq = true ∨ s.getV x ≠ 0#8) ∧
    { t with st := s.st, soundReq := s.soundReq } = s

/-! ### Safe runs -/

/-- A schedule with no fatal fault and no refusal, issued to a core that is not faulted, ends in a core that is not
faulted: "A faulted state is never a final state of a successful run" (R284; the spec's decision D18). -/
def Obligations.SafeRunsEndUnfaulted : Prop :=
  ∀ (ops : List HostOp) (s : State), s.fault = .noFault → SafeRun ops s → (runSchedule ops s).fault = .noFault
end

