-- ==== Sys2Proof/Laws/Decode.lean ====
section
/-! SUPPORT. The fields of a word put together as the encoder does, one lemma per format and field (R91, R92), and the
byte order of a word (R64). -/

namespace Sys2Proof

/-! ### Format NNN -/

@[simp] theorem fieldOp_nnn (op : Nibble) (nnn : Addr12) : fieldOp (wordNNN op nnn) = op := by
  ext k hk
  interval_cases k <;> simp [fieldOp, wordNNN]

@[simp] theorem fieldNNN_nnn (op : Nibble) (nnn : Addr12) : fieldNNN (wordNNN op nnn) = nnn := by
  ext k hk
  interval_cases k <;> simp [fieldNNN, wordNNN]

/-! ### Formats XNN and X -/

@[simp] theorem fieldOp_xnn (op x : Nibble) (nn : Byte) : fieldOp (wordXNN op x nn) = op := by
  ext k hk
  interval_cases k <;> simp [fieldOp, wordXNN]

@[simp] theorem fieldX_xnn (op x : Nibble) (nn : Byte) : fieldX (wordXNN op x nn) = x := by
  ext k hk
  interval_cases k <;> simp [fieldX, wordXNN]

@[simp] theorem fieldNN_xnn (op x : Nibble) (nn : Byte) : fieldNN (wordXNN op x nn) = nn := by
  ext k hk
  interval_cases k <;> simp [fieldNN, wordXNN]

/-! ### Formats XY and XYN -/

@[simp] theorem fieldOp_xyn (op x y n : Nibble) : fieldOp (wordXYN op x y n) = op := by
  ext k hk
  interval_cases k <;> simp [fieldOp, wordXYN]

@[simp] theorem fieldX_xyn (op x y n : Nibble) : fieldX (wordXYN op x y n) = x := by
  ext k hk
  interval_cases k <;> simp [fieldX, wordXYN]

@[simp] theorem fieldY_xyn (op x y n : Nibble) : fieldY (wordXYN op x y n) = y := by
  ext k hk
  interval_cases k <;> simp [fieldY, wordXYN]

@[simp] theorem fieldN_xyn (op x y n : Nibble) : fieldN (wordXYN op x y n) = n := by
  ext k hk
  interval_cases k <;> simp [fieldN, wordXYN]

/-! ### The byte order -/

@[simp] theorem highByte_joinBytes (hi lo : Byte) : highByte (joinBytes hi lo) = hi := by
  ext k hk
  interval_cases k <;> simp [highByte, joinBytes]

@[simp] theorem lowByte_joinBytes (hi lo : Byte) : lowByte (joinBytes hi lo) = lo := by
  ext k hk
  interval_cases k <;> simp [lowByte, joinBytes]

@[simp] theorem joinBytes_bytes (w : Word) : joinBytes (highByte w) (lowByte w) = w := by
  ext k hk
  interval_cases k <;> simp [highByte, lowByte, joinBytes]

/-! ### What the masks of the table keep of a word (R95) -/

theorem mask_nnn (op : Nibble) (nnn : Addr12) : wordNNN op nnn &&& 0xF000#16 = wordNNN op 0#12 := by
  ext k hk
  interval_cases k <;> simp [wordNNN]

theorem mask_xnn (op x : Nibble) (nn : Byte) : wordXNN op x nn &&& 0xF000#16 = wordXNN op 0#4 0#8 := by
  ext k hk
  interval_cases k <;> simp [wordXNN]

theorem mask_x (op x : Nibble) (nn : Byte) : wordXNN op x nn &&& 0xF0FF#16 = wordXNN op 0#4 nn := by
  ext k hk
  interval_cases k <;> simp [wordXNN]

theorem mask_xy (op x y n : Nibble) : wordXYN op x y n &&& 0xF00F#16 = wordXYN op 0#4 0#4 n := by
  ext k hk
  interval_cases k <;> simp [wordXYN]

theorem mask_xyn (op x y n : Nibble) : wordXYN op x y n &&& 0xF000#16 = wordXYN op 0#4 0#4 0#4 := by
  ext k hk
  interval_cases k <;> simp [wordXYN]

end Sys2Proof
end

