-- ==== Sys2Proof/Laws/Display.lean ====
section
/-! SUPPORT. The display: a read after a write, and what a blit leaves, pixel by pixel (R197, R198). -/

namespace Sys2Proof.Machine

/-- A pixel reads as what was last written to it, and a write leaves the others alone. -/
theorem Display.pixel_setPixel (d : Display) (r : Fin 32) (c : Fin 64) (b : Bool) (r' : Fin 32) (c' : Fin 64) :
    (d.setPixel r c b).pixel r' c' = if r' = r ∧ c' = c then b else d.pixel r' c' := by
  simp only [Display.setPixel, Display.pixel, Vector.getElem_set]
  by_cases hr : r = r'
  · subst hr
    by_cases hc : c = c'
    · simp [hc]
    · have : c.val ≠ c'.val := fun h => hc (Fin.ext h)
      simp [this, Ne.symm hc]
  · have : r.val ≠ r'.val := fun h => hr (Fin.ext h)
    simp [this, Ne.symm hr]

/-- Two displays are equal when every pixel is. -/
theorem Display.ext_pixel {d e : Display} (h : ∀ r c, d.pixel r c = e.pixel r c) : d = e :=
  Vector.ext fun r hr => Vector.ext fun c hc => h ⟨r, hr⟩ ⟨c, hc⟩

@[simp] theorem clearDisplay_pixel (r : Fin 32) (c : Fin 64) : Display.pixel clearDisplay r c = false := by
  simp [clearDisplay, Display.pixel]

/-- One sprite bit flips its pixel or does nothing. -/
theorem blitPixel_pixel (r : Fin 32) (c : Fin 64) (on : Bool) (p : Blit) (r' : Fin 32) (c' : Fin 64) :
    (blitPixel r c on p).disp.pixel r' c' = (p.disp.pixel r' c' ^^ (on && decide (r' = r ∧ c' = c))) := by
  cases on with
  | false => simp [blitPixel]
  | true =>
    simp only [blitPixel, if_true, Display.pixel_setPixel]
    by_cases h : r' = r ∧ c' = c
    · obtain ⟨rfl, rfl⟩ := h
      simp
    · simp [h]

/-- One sprite bit hits where it is 1 and the pixel was 1. -/
theorem blitPixel_hit (r : Fin 32) (c : Fin 64) (on : Bool) (p : Blit) :
    (blitPixel r c on p).hit = (p.hit || (on && p.disp.pixel r c)) := by
  cases on <;> simp [blitPixel]

/-- The sprite column that falls on a pixel column. -/
theorem wrapCol_eq_iff {x0 n : Nat} (hx : x0 < 64) (hn : n < 64) (c : Fin 64) :
    c = wrapCol (x0 + n) ↔ (c.val + 64 - x0) % 64 = n := by
  have := c.isLt
  rw [Fin.ext_iff]
  simp only [wrapCol]
  omega

/-- The sprite row that falls on a pixel row. -/
theorem wrapRow_eq_iff {y0 n : Nat} (hy : y0 < 32) (hn : n < 32) (r : Fin 32) :
    r = wrapRow (y0 + n) ↔ (r.val + 32 - y0) % 32 = n := by
  have := r.isLt
  rw [Fin.ext_iff]
  simp only [wrapRow]
  omega

/-- The image of one more column. -/
theorem colImage_succ (row : Byte) {x0 n : Nat} (hx : x0 < 64) (hn : n < 64) (c : Fin 64) :
    colImage row x0 (n + 1) c = (colImage row x0 n c ^^ (spriteBit row n && decide (c = wrapCol (x0 + n)))) := by
  have h := wrapCol_eq_iff hx hn c
  unfold colImage
  by_cases he : (c.val + 64 - x0) % 64 = n
  · simp [h.2 he]
    simp [← h.2 he, he]
  · have hlt : (c.val + 64 - x0) % 64 < n + 1 ↔ (c.val + 64 - x0) % 64 < n := by omega
    simp [hlt, mt h.1 he]

/-- The pixels after one row of the blit: those before, XORed with the image of the row. -/
theorem blitCols_pixel (row : Byte) (r : Fin 32) {x0 : Nat} (hx : x0 < 64) (n : Nat) (hn : n ≤ 64) (p : Blit)
    (r' : Fin 32) (c' : Fin 64) :
    (blitCols row r x0 n p).disp.pixel r' c' = (p.disp.pixel r' c' ^^ (decide (r' = r) && colImage row x0 n c')) := by
  induction n with
  | zero => simp [blitCols, colImage]
  | succ n ih =>
    rw [blitCols, blitPixel_pixel, ih (by omega), colImage_succ row hx (by omega)]
    by_cases hr : r' = r <;> simp [hr]

/-- One row of the blit hits where its image meets a pixel that was 1. -/
theorem blitCols_hit (row : Byte) (r : Fin 32) {x0 : Nat} (hx : x0 < 64) (n : Nat) (hn : n ≤ 64) (p : Blit) :
    (blitCols row r x0 n p).hit = true ↔
      p.hit = true ∨ ∃ c, colImage row x0 n c = true ∧ p.disp.pixel r c = true := by
  induction n with
  | zero => simp [blitCols, colImage]
  | succ n ih =>
    rw [blitCols, blitPixel_hit, Bool.or_eq_true, ih (by omega), Bool.and_eq_true,
      blitCols_pixel row r hx n (by omega)]
    have hself : colImage row x0 n (wrapCol (x0 + n)) = false := by
      have := (wrapCol_eq_iff hx (by omega : n < 64) (wrapCol (x0 + n))).1 rfl
      simp [colImage, this]
    rw [hself]
    simp only [Bool.and_false, Bool.xor_false]
    constructor
    · rintro ((h | ⟨c, h1, h2⟩) | ⟨h1, h2⟩)
      · exact .inl h
      · refine .inr ⟨c, ?_, h2⟩
        rw [colImage_succ row hx (by omega), h1]
        have : c ≠ wrapCol (x0 + n) := by
          rintro rfl
          rw [hself] at h1
          exact absurd h1 (by simp)
        simp [this]
      · refine .inr ⟨wrapCol (x0 + n), ?_, h2⟩
        rw [colImage_succ row hx (by omega), hself]
        simp [h1]
    · rintro (h | ⟨c, h1, h2⟩)
      · exact .inl (.inl h)
      · by_cases hc : c = wrapCol (x0 + n)
        · subst hc
          rw [colImage_succ row hx (by omega), hself] at h1
          exact .inr ⟨by simpa using h1, h2⟩
        · rw [colImage_succ row hx (by omega)] at h1
          exact .inl (.inr ⟨c, by simpa [hc] using h1, h2⟩)

/-- The image of one more row of the sprite. -/
theorem spriteImage_succ (s : State) {x0 y0 n : Nat} (hy : y0 < 32) (hn : n < 32) (r : Fin 32) (c : Fin 64) :
    s.spriteImage x0 y0 (n + 1) r c =
      (s.spriteImage x0 y0 n r c ^^ (decide (r = wrapRow (y0 + n)) && colImage (s.readByte (s.i.toNat + n)) x0 8 c)) := by
  have h := wrapRow_eq_iff hy hn r
  unfold State.spriteImage
  by_cases he : (r.val + 32 - y0) % 32 = n
  · have h2 := h.2 he
    simp only [he, Nat.lt_irrefl, decide_false, Bool.false_and, Bool.false_xor, decide_eq_true h2]
    simp
  · have hlt : (r.val + 32 - y0) % 32 < n + 1 ↔ (r.val + 32 - y0) % 32 < n := by omega
    simp [hlt, mt h.1 he]

/-- The pixels after the first `n` rows of a blit: those before, XORed with the wrapped image of the rows (R198 c). -/
theorem blitRows_pixel (s : State) {x0 y0 : Nat} (hx : x0 < 64) (hy : y0 < 32) (n : Nat) (hn : n ≤ 32) (p : Blit)
    (r : Fin 32) (c : Fin 64) :
    (blitRows s x0 y0 n p).disp.pixel r c = (p.disp.pixel r c ^^ s.spriteImage x0 y0 n r c) := by
  induction n with
  | zero => simp [blitRows, State.spriteImage]
  | succ n ih =>
    rw [blitRows, blitCols_pixel _ _ hx 8 (by omega), ih (by omega), spriteImage_succ s hy (by omega), Bool.xor_assoc]
    rfl

/-- The blit hits exactly where its image meets a pixel that was 1 (R198 c). -/
theorem blitRows_hit (s : State) {x0 y0 : Nat} (hx : x0 < 64) (hy : y0 < 32) (n : Nat) (hn : n ≤ 32) (p : Blit) :
    (blitRows s x0 y0 n p).hit = true ↔
      p.hit = true ∨ ∃ r c, s.spriteImage x0 y0 n r c = true ∧ p.disp.pixel r c = true := by
  induction n with
  | zero => simp [blitRows, State.spriteImage]
  | succ n ih =>
    have hrow : ∀ c, s.spriteImage x0 y0 n (wrapRow (y0 + n)) c = false := by
      intro c
      have := (wrapRow_eq_iff hy (by omega : n < 32) (wrapRow (y0 + n))).1 rfl
      simp [State.spriteImage, this]
    rw [blitRows, blitCols_hit _ _ hx 8 (by omega), ih (by omega)]
    simp only [blitRows_pixel s hx hy n (by omega), hrow, Bool.xor_false, State.dataAddr]
    constructor
    · rintro ((h | ⟨r, c, h1, h2⟩) | ⟨c, h1, h2⟩)
      · exact .inl h
      · refine .inr ⟨r, c, ?_, h2⟩
        have hr : r ≠ wrapRow (y0 + n) := by
          rintro rfl
          rw [hrow] at h1
          exact absurd h1 (by simp)
        rw [spriteImage_succ s hy (by omega), h1]
        simp [hr]
      · refine .inr ⟨wrapRow (y0 + n), c, ?_, h2⟩
        rw [spriteImage_succ s hy (by omega), hrow]
        simp [h1]
    · rintro (h | ⟨r, c, h1, h2⟩)
      · exact .inl (.inl h)
      · rw [spriteImage_succ s hy (by omega)] at h1
        by_cases hr : r = wrapRow (y0 + n)
        · subst hr
          rw [hrow] at h1
          exact .inr ⟨c, by simpa using h1, h2⟩
        · exact .inl (.inr ⟨r, c, by simpa [hr] using h1, h2⟩)

end Sys2Proof.Machine
end

