-- ==== Sys2Proof/Laws/State.lean ====
section
/-! SUPPORT. One lemma for each field of State and each update of Machine/Ops.lean, true by rfl, and the same for the
reads of a register, a byte and a key flag: no later proof unfolds a record update. -/

namespace Sys2Proof.Machine

variable (s : State)

@[simp] theorem State.writeByte_mem (a : Nat) (w : Byte) : (s.writeByte a w).mem = Memory.write s.config a w s.mem := rfl
@[simp] theorem State.writeByte_v (a : Nat) (w : Byte) : (s.writeByte a w).v = s.v := rfl
@[simp] theorem State.writeByte_i (a : Nat) (w : Byte) : (s.writeByte a w).i = s.i := rfl
@[simp] theorem State.writeByte_pc (a : Nat) (w : Byte) : (s.writeByte a w).pc = s.pc := rfl
@[simp] theorem State.writeByte_stack (a : Nat) (w : Byte) : (s.writeByte a w).stack = s.stack := rfl
@[simp] theorem State.writeByte_sp (a : Nat) (w : Byte) : (s.writeByte a w).sp = s.sp := rfl
@[simp] theorem State.writeByte_dt (a : Nat) (w : Byte) : (s.writeByte a w).dt = s.dt := rfl
@[simp] theorem State.writeByte_st (a : Nat) (w : Byte) : (s.writeByte a w).st = s.st := rfl
@[simp] theorem State.writeByte_disp (a : Nat) (w : Byte) : (s.writeByte a w).disp = s.disp := rfl
@[simp] theorem State.writeByte_keys (a : Nat) (w : Byte) : (s.writeByte a w).keys = s.keys := rfl
@[simp] theorem State.writeByte_waiting (a : Nat) (w : Byte) : (s.writeByte a w).waiting = s.waiting := rfl
@[simp] theorem State.writeByte_lastKeyValid (a : Nat) (w : Byte) : (s.writeByte a w).lastKeyValid = s.lastKeyValid := rfl
@[simp] theorem State.writeByte_lastKey (a : Nat) (w : Byte) : (s.writeByte a w).lastKey = s.lastKey := rfl
@[simp] theorem State.writeByte_keyPending (a : Nat) (w : Byte) : (s.writeByte a w).keyPending = s.keyPending := rfl
@[simp] theorem State.writeByte_drawReq (a : Nat) (w : Byte) : (s.writeByte a w).drawReq = s.drawReq := rfl
@[simp] theorem State.writeByte_soundReq (a : Nat) (w : Byte) : (s.writeByte a w).soundReq = s.soundReq := rfl
@[simp] theorem State.writeByte_fault (a : Nat) (w : Byte) : (s.writeByte a w).fault = s.fault := rfl
@[simp] theorem State.writeByte_config (a : Nat) (w : Byte) : (s.writeByte a w).config = s.config := rfl
@[simp] theorem State.writeByte_drawCount (a : Nat) (w : Byte) : (s.writeByte a w).drawCount = s.drawCount := rfl
@[simp] theorem State.writeByte_getV (a : Nat) (w : Byte) (r : Nibble) : (s.writeByte a w).getV r = s.getV r := rfl
@[simp] theorem State.writeByte_keyDownFlag (a : Nat) (w : Byte) (r : Nibble) : (s.writeByte a w).keyDownFlag r = s.keyDownFlag r := rfl

@[simp] theorem State.setV_mem (x : Nibble) (b : Byte) : (s.setV x b).mem = s.mem := rfl
@[simp] theorem State.setV_v (x : Nibble) (b : Byte) : (s.setV x b).v = s.v.set x.toNat b x.isLt := rfl
@[simp] theorem State.setV_i (x : Nibble) (b : Byte) : (s.setV x b).i = s.i := rfl
@[simp] theorem State.setV_pc (x : Nibble) (b : Byte) : (s.setV x b).pc = s.pc := rfl
@[simp] theorem State.setV_stack (x : Nibble) (b : Byte) : (s.setV x b).stack = s.stack := rfl
@[simp] theorem State.setV_sp (x : Nibble) (b : Byte) : (s.setV x b).sp = s.sp := rfl
@[simp] theorem State.setV_dt (x : Nibble) (b : Byte) : (s.setV x b).dt = s.dt := rfl
@[simp] theorem State.setV_st (x : Nibble) (b : Byte) : (s.setV x b).st = s.st := rfl
@[simp] theorem State.setV_disp (x : Nibble) (b : Byte) : (s.setV x b).disp = s.disp := rfl
@[simp] theorem State.setV_keys (x : Nibble) (b : Byte) : (s.setV x b).keys = s.keys := rfl
@[simp] theorem State.setV_waiting (x : Nibble) (b : Byte) : (s.setV x b).waiting = s.waiting := rfl
@[simp] theorem State.setV_lastKeyValid (x : Nibble) (b : Byte) : (s.setV x b).lastKeyValid = s.lastKeyValid := rfl
@[simp] theorem State.setV_lastKey (x : Nibble) (b : Byte) : (s.setV x b).lastKey = s.lastKey := rfl
@[simp] theorem State.setV_keyPending (x : Nibble) (b : Byte) : (s.setV x b).keyPending = s.keyPending := rfl
@[simp] theorem State.setV_drawReq (x : Nibble) (b : Byte) : (s.setV x b).drawReq = s.drawReq := rfl
@[simp] theorem State.setV_soundReq (x : Nibble) (b : Byte) : (s.setV x b).soundReq = s.soundReq := rfl
@[simp] theorem State.setV_fault (x : Nibble) (b : Byte) : (s.setV x b).fault = s.fault := rfl
@[simp] theorem State.setV_config (x : Nibble) (b : Byte) : (s.setV x b).config = s.config := rfl
@[simp] theorem State.setV_drawCount (x : Nibble) (b : Byte) : (s.setV x b).drawCount = s.drawCount := rfl
@[simp] theorem State.setV_readByte (x : Nibble) (b : Byte) (r : Nat) : (s.setV x b).readByte r = s.readByte r := rfl
@[simp] theorem State.setV_keyDownFlag (x : Nibble) (b : Byte) (r : Nibble) : (s.setV x b).keyDownFlag r = s.keyDownFlag r := rfl

@[simp] theorem State.setI_mem (w : Word) : (s.setI w).mem = s.mem := rfl
@[simp] theorem State.setI_v (w : Word) : (s.setI w).v = s.v := rfl
@[simp] theorem State.setI_i (w : Word) : (s.setI w).i = w := rfl
@[simp] theorem State.setI_pc (w : Word) : (s.setI w).pc = s.pc := rfl
@[simp] theorem State.setI_stack (w : Word) : (s.setI w).stack = s.stack := rfl
@[simp] theorem State.setI_sp (w : Word) : (s.setI w).sp = s.sp := rfl
@[simp] theorem State.setI_dt (w : Word) : (s.setI w).dt = s.dt := rfl
@[simp] theorem State.setI_st (w : Word) : (s.setI w).st = s.st := rfl
@[simp] theorem State.setI_disp (w : Word) : (s.setI w).disp = s.disp := rfl
@[simp] theorem State.setI_keys (w : Word) : (s.setI w).keys = s.keys := rfl
@[simp] theorem State.setI_waiting (w : Word) : (s.setI w).waiting = s.waiting := rfl
@[simp] theorem State.setI_lastKeyValid (w : Word) : (s.setI w).lastKeyValid = s.lastKeyValid := rfl
@[simp] theorem State.setI_lastKey (w : Word) : (s.setI w).lastKey = s.lastKey := rfl
@[simp] theorem State.setI_keyPending (w : Word) : (s.setI w).keyPending = s.keyPending := rfl
@[simp] theorem State.setI_drawReq (w : Word) : (s.setI w).drawReq = s.drawReq := rfl
@[simp] theorem State.setI_soundReq (w : Word) : (s.setI w).soundReq = s.soundReq := rfl
@[simp] theorem State.setI_fault (w : Word) : (s.setI w).fault = s.fault := rfl
@[simp] theorem State.setI_config (w : Word) : (s.setI w).config = s.config := rfl
@[simp] theorem State.setI_drawCount (w : Word) : (s.setI w).drawCount = s.drawCount := rfl
@[simp] theorem State.setI_getV (w : Word) (r : Nibble) : (s.setI w).getV r = s.getV r := rfl
@[simp] theorem State.setI_readByte (w : Word) (r : Nat) : (s.setI w).readByte r = s.readByte r := rfl
@[simp] theorem State.setI_keyDownFlag (w : Word) (r : Nibble) : (s.setI w).keyDownFlag r = s.keyDownFlag r := rfl

@[simp] theorem State.setPC_mem (w : Word) : (s.setPC w).mem = s.mem := rfl
@[simp] theorem State.setPC_v (w : Word) : (s.setPC w).v = s.v := rfl
@[simp] theorem State.setPC_i (w : Word) : (s.setPC w).i = s.i := rfl
@[simp] theorem State.setPC_pc (w : Word) : (s.setPC w).pc = w := rfl
@[simp] theorem State.setPC_stack (w : Word) : (s.setPC w).stack = s.stack := rfl
@[simp] theorem State.setPC_sp (w : Word) : (s.setPC w).sp = s.sp := rfl
@[simp] theorem State.setPC_dt (w : Word) : (s.setPC w).dt = s.dt := rfl
@[simp] theorem State.setPC_st (w : Word) : (s.setPC w).st = s.st := rfl
@[simp] theorem State.setPC_disp (w : Word) : (s.setPC w).disp = s.disp := rfl
@[simp] theorem State.setPC_keys (w : Word) : (s.setPC w).keys = s.keys := rfl
@[simp] theorem State.setPC_waiting (w : Word) : (s.setPC w).waiting = s.waiting := rfl
@[simp] theorem State.setPC_lastKeyValid (w : Word) : (s.setPC w).lastKeyValid = s.lastKeyValid := rfl
@[simp] theorem State.setPC_lastKey (w : Word) : (s.setPC w).lastKey = s.lastKey := rfl
@[simp] theorem State.setPC_keyPending (w : Word) : (s.setPC w).keyPending = s.keyPending := rfl
@[simp] theorem State.setPC_drawReq (w : Word) : (s.setPC w).drawReq = s.drawReq := rfl
@[simp] theorem State.setPC_soundReq (w : Word) : (s.setPC w).soundReq = s.soundReq := rfl
@[simp] theorem State.setPC_fault (w : Word) : (s.setPC w).fault = s.fault := rfl
@[simp] theorem State.setPC_config (w : Word) : (s.setPC w).config = s.config := rfl
@[simp] theorem State.setPC_drawCount (w : Word) : (s.setPC w).drawCount = s.drawCount := rfl
@[simp] theorem State.setPC_getV (w : Word) (r : Nibble) : (s.setPC w).getV r = s.getV r := rfl
@[simp] theorem State.setPC_readByte (w : Word) (r : Nat) : (s.setPC w).readByte r = s.readByte r := rfl
@[simp] theorem State.setPC_keyDownFlag (w : Word) (r : Nibble) : (s.setPC w).keyDownFlag r = s.keyDownFlag r := rfl

@[simp] theorem State.setDT_mem (b : Byte) : (s.setDT b).mem = s.mem := rfl
@[simp] theorem State.setDT_v (b : Byte) : (s.setDT b).v = s.v := rfl
@[simp] theorem State.setDT_i (b : Byte) : (s.setDT b).i = s.i := rfl
@[simp] theorem State.setDT_pc (b : Byte) : (s.setDT b).pc = s.pc := rfl
@[simp] theorem State.setDT_stack (b : Byte) : (s.setDT b).stack = s.stack := rfl
@[simp] theorem State.setDT_sp (b : Byte) : (s.setDT b).sp = s.sp := rfl
@[simp] theorem State.setDT_dt (b : Byte) : (s.setDT b).dt = b := rfl
@[simp] theorem State.setDT_st (b : Byte) : (s.setDT b).st = s.st := rfl
@[simp] theorem State.setDT_disp (b : Byte) : (s.setDT b).disp = s.disp := rfl
@[simp] theorem State.setDT_keys (b : Byte) : (s.setDT b).keys = s.keys := rfl
@[simp] theorem State.setDT_waiting (b : Byte) : (s.setDT b).waiting = s.waiting := rfl
@[simp] theorem State.setDT_lastKeyValid (b : Byte) : (s.setDT b).lastKeyValid = s.lastKeyValid := rfl
@[simp] theorem State.setDT_lastKey (b : Byte) : (s.setDT b).lastKey = s.lastKey := rfl
@[simp] theorem State.setDT_keyPending (b : Byte) : (s.setDT b).keyPending = s.keyPending := rfl
@[simp] theorem State.setDT_drawReq (b : Byte) : (s.setDT b).drawReq = s.drawReq := rfl
@[simp] theorem State.setDT_soundReq (b : Byte) : (s.setDT b).soundReq = s.soundReq := rfl
@[simp] theorem State.setDT_fault (b : Byte) : (s.setDT b).fault = s.fault := rfl
@[simp] theorem State.setDT_config (b : Byte) : (s.setDT b).config = s.config := rfl
@[simp] theorem State.setDT_drawCount (b : Byte) : (s.setDT b).drawCount = s.drawCount := rfl
@[simp] theorem State.setDT_getV (b : Byte) (r : Nibble) : (s.setDT b).getV r = s.getV r := rfl
@[simp] theorem State.setDT_readByte (b : Byte) (r : Nat) : (s.setDT b).readByte r = s.readByte r := rfl
@[simp] theorem State.setDT_keyDownFlag (b : Byte) (r : Nibble) : (s.setDT b).keyDownFlag r = s.keyDownFlag r := rfl

@[simp] theorem State.setST_mem (b : Byte) : (s.setST b).mem = s.mem := rfl
@[simp] theorem State.setST_v (b : Byte) : (s.setST b).v = s.v := rfl
@[simp] theorem State.setST_i (b : Byte) : (s.setST b).i = s.i := rfl
@[simp] theorem State.setST_pc (b : Byte) : (s.setST b).pc = s.pc := rfl
@[simp] theorem State.setST_stack (b : Byte) : (s.setST b).stack = s.stack := rfl
@[simp] theorem State.setST_sp (b : Byte) : (s.setST b).sp = s.sp := rfl
@[simp] theorem State.setST_dt (b : Byte) : (s.setST b).dt = s.dt := rfl
@[simp] theorem State.setST_st (b : Byte) : (s.setST b).st = b := rfl
@[simp] theorem State.setST_disp (b : Byte) : (s.setST b).disp = s.disp := rfl
@[simp] theorem State.setST_keys (b : Byte) : (s.setST b).keys = s.keys := rfl
@[simp] theorem State.setST_waiting (b : Byte) : (s.setST b).waiting = s.waiting := rfl
@[simp] theorem State.setST_lastKeyValid (b : Byte) : (s.setST b).lastKeyValid = s.lastKeyValid := rfl
@[simp] theorem State.setST_lastKey (b : Byte) : (s.setST b).lastKey = s.lastKey := rfl
@[simp] theorem State.setST_keyPending (b : Byte) : (s.setST b).keyPending = s.keyPending := rfl
@[simp] theorem State.setST_drawReq (b : Byte) : (s.setST b).drawReq = s.drawReq := rfl
@[simp] theorem State.setST_soundReq (b : Byte) : (s.setST b).soundReq = s.soundReq := rfl
@[simp] theorem State.setST_fault (b : Byte) : (s.setST b).fault = s.fault := rfl
@[simp] theorem State.setST_config (b : Byte) : (s.setST b).config = s.config := rfl
@[simp] theorem State.setST_drawCount (b : Byte) : (s.setST b).drawCount = s.drawCount := rfl
@[simp] theorem State.setST_getV (b : Byte) (r : Nibble) : (s.setST b).getV r = s.getV r := rfl
@[simp] theorem State.setST_readByte (b : Byte) (r : Nat) : (s.setST b).readByte r = s.readByte r := rfl
@[simp] theorem State.setST_keyDownFlag (b : Byte) (r : Nibble) : (s.setST b).keyDownFlag r = s.keyDownFlag r := rfl

@[simp] theorem State.setDisp_mem (d : Display) : (s.setDisp d).mem = s.mem := rfl
@[simp] theorem State.setDisp_v (d : Display) : (s.setDisp d).v = s.v := rfl
@[simp] theorem State.setDisp_i (d : Display) : (s.setDisp d).i = s.i := rfl
@[simp] theorem State.setDisp_pc (d : Display) : (s.setDisp d).pc = s.pc := rfl
@[simp] theorem State.setDisp_stack (d : Display) : (s.setDisp d).stack = s.stack := rfl
@[simp] theorem State.setDisp_sp (d : Display) : (s.setDisp d).sp = s.sp := rfl
@[simp] theorem State.setDisp_dt (d : Display) : (s.setDisp d).dt = s.dt := rfl
@[simp] theorem State.setDisp_st (d : Display) : (s.setDisp d).st = s.st := rfl
@[simp] theorem State.setDisp_disp (d : Display) : (s.setDisp d).disp = d := rfl
@[simp] theorem State.setDisp_keys (d : Display) : (s.setDisp d).keys = s.keys := rfl
@[simp] theorem State.setDisp_waiting (d : Display) : (s.setDisp d).waiting = s.waiting := rfl
@[simp] theorem State.setDisp_lastKeyValid (d : Display) : (s.setDisp d).lastKeyValid = s.lastKeyValid := rfl
@[simp] theorem State.setDisp_lastKey (d : Display) : (s.setDisp d).lastKey = s.lastKey := rfl
@[simp] theorem State.setDisp_keyPending (d : Display) : (s.setDisp d).keyPending = s.keyPending := rfl
@[simp] theorem State.setDisp_drawReq (d : Display) : (s.setDisp d).drawReq = s.drawReq := rfl
@[simp] theorem State.setDisp_soundReq (d : Display) : (s.setDisp d).soundReq = s.soundReq := rfl
@[simp] theorem State.setDisp_fault (d : Display) : (s.setDisp d).fault = s.fault := rfl
@[simp] theorem State.setDisp_config (d : Display) : (s.setDisp d).config = s.config := rfl
@[simp] theorem State.setDisp_drawCount (d : Display) : (s.setDisp d).drawCount = s.drawCount := rfl
@[simp] theorem State.setDisp_getV (d : Display) (r : Nibble) : (s.setDisp d).getV r = s.getV r := rfl
@[simp] theorem State.setDisp_readByte (d : Display) (r : Nat) : (s.setDisp d).readByte r = s.readByte r := rfl
@[simp] theorem State.setDisp_keyDownFlag (d : Display) (r : Nibble) : (s.setDisp d).keyDownFlag r = s.keyDownFlag r := rfl

@[simp] theorem State.setKey_mem (k : Nibble) (b : Bool) : (s.setKey k b).mem = s.mem := rfl
@[simp] theorem State.setKey_v (k : Nibble) (b : Bool) : (s.setKey k b).v = s.v := rfl
@[simp] theorem State.setKey_i (k : Nibble) (b : Bool) : (s.setKey k b).i = s.i := rfl
@[simp] theorem State.setKey_pc (k : Nibble) (b : Bool) : (s.setKey k b).pc = s.pc := rfl
@[simp] theorem State.setKey_stack (k : Nibble) (b : Bool) : (s.setKey k b).stack = s.stack := rfl
@[simp] theorem State.setKey_sp (k : Nibble) (b : Bool) : (s.setKey k b).sp = s.sp := rfl
@[simp] theorem State.setKey_dt (k : Nibble) (b : Bool) : (s.setKey k b).dt = s.dt := rfl
@[simp] theorem State.setKey_st (k : Nibble) (b : Bool) : (s.setKey k b).st = s.st := rfl
@[simp] theorem State.setKey_disp (k : Nibble) (b : Bool) : (s.setKey k b).disp = s.disp := rfl
@[simp] theorem State.setKey_keys (k : Nibble) (b : Bool) : (s.setKey k b).keys = s.keys.set k.toNat b k.isLt := rfl
@[simp] theorem State.setKey_waiting (k : Nibble) (b : Bool) : (s.setKey k b).waiting = s.waiting := rfl
@[simp] theorem State.setKey_lastKeyValid (k : Nibble) (b : Bool) : (s.setKey k b).lastKeyValid = s.lastKeyValid := rfl
@[simp] theorem State.setKey_lastKey (k : Nibble) (b : Bool) : (s.setKey k b).lastKey = s.lastKey := rfl
@[simp] theorem State.setKey_keyPending (k : Nibble) (b : Bool) : (s.setKey k b).keyPending = s.keyPending := rfl
@[simp] theorem State.setKey_drawReq (k : Nibble) (b : Bool) : (s.setKey k b).drawReq = s.drawReq := rfl
@[simp] theorem State.setKey_soundReq (k : Nibble) (b : Bool) : (s.setKey k b).soundReq = s.soundReq := rfl
@[simp] theorem State.setKey_fault (k : Nibble) (b : Bool) : (s.setKey k b).fault = s.fault := rfl
@[simp] theorem State.setKey_config (k : Nibble) (b : Bool) : (s.setKey k b).config = s.config := rfl
@[simp] theorem State.setKey_drawCount (k : Nibble) (b : Bool) : (s.setKey k b).drawCount = s.drawCount := rfl
@[simp] theorem State.setKey_getV (k : Nibble) (b : Bool) (r : Nibble) : (s.setKey k b).getV r = s.getV r := rfl
@[simp] theorem State.setKey_readByte (k : Nibble) (b : Bool) (r : Nat) : (s.setKey k b).readByte r = s.readByte r := rfl

@[simp] theorem State.setWaiting_mem (b : Bool) : (s.setWaiting b).mem = s.mem := rfl
@[simp] theorem State.setWaiting_v (b : Bool) : (s.setWaiting b).v = s.v := rfl
@[simp] theorem State.setWaiting_i (b : Bool) : (s.setWaiting b).i = s.i := rfl
@[simp] theorem State.setWaiting_pc (b : Bool) : (s.setWaiting b).pc = s.pc := rfl
@[simp] theorem State.setWaiting_stack (b : Bool) : (s.setWaiting b).stack = s.stack := rfl
@[simp] theorem State.setWaiting_sp (b : Bool) : (s.setWaiting b).sp = s.sp := rfl
@[simp] theorem State.setWaiting_dt (b : Bool) : (s.setWaiting b).dt = s.dt := rfl
@[simp] theorem State.setWaiting_st (b : Bool) : (s.setWaiting b).st = s.st := rfl
@[simp] theorem State.setWaiting_disp (b : Bool) : (s.setWaiting b).disp = s.disp := rfl
@[simp] theorem State.setWaiting_keys (b : Bool) : (s.setWaiting b).keys = s.keys := rfl
@[simp] theorem State.setWaiting_waiting (b : Bool) : (s.setWaiting b).waiting = b := rfl
@[simp] theorem State.setWaiting_lastKeyValid (b : Bool) : (s.setWaiting b).lastKeyValid = s.lastKeyValid := rfl
@[simp] theorem State.setWaiting_lastKey (b : Bool) : (s.setWaiting b).lastKey = s.lastKey := rfl
@[simp] theorem State.setWaiting_keyPending (b : Bool) : (s.setWaiting b).keyPending = s.keyPending := rfl
@[simp] theorem State.setWaiting_drawReq (b : Bool) : (s.setWaiting b).drawReq = s.drawReq := rfl
@[simp] theorem State.setWaiting_soundReq (b : Bool) : (s.setWaiting b).soundReq = s.soundReq := rfl
@[simp] theorem State.setWaiting_fault (b : Bool) : (s.setWaiting b).fault = s.fault := rfl
@[simp] theorem State.setWaiting_config (b : Bool) : (s.setWaiting b).config = s.config := rfl
@[simp] theorem State.setWaiting_drawCount (b : Bool) : (s.setWaiting b).drawCount = s.drawCount := rfl
@[simp] theorem State.setWaiting_getV (b : Bool) (r : Nibble) : (s.setWaiting b).getV r = s.getV r := rfl
@[simp] theorem State.setWaiting_readByte (b : Bool) (r : Nat) : (s.setWaiting b).readByte r = s.readByte r := rfl
@[simp] theorem State.setWaiting_keyDownFlag (b : Bool) (r : Nibble) : (s.setWaiting b).keyDownFlag r = s.keyDownFlag r := rfl

@[simp] theorem State.setLastKey_mem (k : Nibble) : (s.setLastKey k).mem = s.mem := rfl
@[simp] theorem State.setLastKey_v (k : Nibble) : (s.setLastKey k).v = s.v := rfl
@[simp] theorem State.setLastKey_i (k : Nibble) : (s.setLastKey k).i = s.i := rfl
@[simp] theorem State.setLastKey_pc (k : Nibble) : (s.setLastKey k).pc = s.pc := rfl
@[simp] theorem State.setLastKey_stack (k : Nibble) : (s.setLastKey k).stack = s.stack := rfl
@[simp] theorem State.setLastKey_sp (k : Nibble) : (s.setLastKey k).sp = s.sp := rfl
@[simp] theorem State.setLastKey_dt (k : Nibble) : (s.setLastKey k).dt = s.dt := rfl
@[simp] theorem State.setLastKey_st (k : Nibble) : (s.setLastKey k).st = s.st := rfl
@[simp] theorem State.setLastKey_disp (k : Nibble) : (s.setLastKey k).disp = s.disp := rfl
@[simp] theorem State.setLastKey_keys (k : Nibble) : (s.setLastKey k).keys = s.keys := rfl
@[simp] theorem State.setLastKey_waiting (k : Nibble) : (s.setLastKey k).waiting = s.waiting := rfl
@[simp] theorem State.setLastKey_lastKeyValid (k : Nibble) : (s.setLastKey k).lastKeyValid = true := rfl
@[simp] theorem State.setLastKey_lastKey (k : Nibble) : (s.setLastKey k).lastKey = k := rfl
@[simp] theorem State.setLastKey_keyPending (k : Nibble) : (s.setLastKey k).keyPending = s.keyPending := rfl
@[simp] theorem State.setLastKey_drawReq (k : Nibble) : (s.setLastKey k).drawReq = s.drawReq := rfl
@[simp] theorem State.setLastKey_soundReq (k : Nibble) : (s.setLastKey k).soundReq = s.soundReq := rfl
@[simp] theorem State.setLastKey_fault (k : Nibble) : (s.setLastKey k).fault = s.fault := rfl
@[simp] theorem State.setLastKey_config (k : Nibble) : (s.setLastKey k).config = s.config := rfl
@[simp] theorem State.setLastKey_drawCount (k : Nibble) : (s.setLastKey k).drawCount = s.drawCount := rfl
@[simp] theorem State.setLastKey_getV (k : Nibble) (r : Nibble) : (s.setLastKey k).getV r = s.getV r := rfl
@[simp] theorem State.setLastKey_readByte (k : Nibble) (r : Nat) : (s.setLastKey k).readByte r = s.readByte r := rfl
@[simp] theorem State.setLastKey_keyDownFlag (k : Nibble) (r : Nibble) : (s.setLastKey k).keyDownFlag r = s.keyDownFlag r := rfl

@[simp] theorem State.setKeyPending_mem (b : Bool) : (s.setKeyPending b).mem = s.mem := rfl
@[simp] theorem State.setKeyPending_v (b : Bool) : (s.setKeyPending b).v = s.v := rfl
@[simp] theorem State.setKeyPending_i (b : Bool) : (s.setKeyPending b).i = s.i := rfl
@[simp] theorem State.setKeyPending_pc (b : Bool) : (s.setKeyPending b).pc = s.pc := rfl
@[simp] theorem State.setKeyPending_stack (b : Bool) : (s.setKeyPending b).stack = s.stack := rfl
@[simp] theorem State.setKeyPending_sp (b : Bool) : (s.setKeyPending b).sp = s.sp := rfl
@[simp] theorem State.setKeyPending_dt (b : Bool) : (s.setKeyPending b).dt = s.dt := rfl
@[simp] theorem State.setKeyPending_st (b : Bool) : (s.setKeyPending b).st = s.st := rfl
@[simp] theorem State.setKeyPending_disp (b : Bool) : (s.setKeyPending b).disp = s.disp := rfl
@[simp] theorem State.setKeyPending_keys (b : Bool) : (s.setKeyPending b).keys = s.keys := rfl
@[simp] theorem State.setKeyPending_waiting (b : Bool) : (s.setKeyPending b).waiting = s.waiting := rfl
@[simp] theorem State.setKeyPending_lastKeyValid (b : Bool) : (s.setKeyPending b).lastKeyValid = s.lastKeyValid := rfl
@[simp] theorem State.setKeyPending_lastKey (b : Bool) : (s.setKeyPending b).lastKey = s.lastKey := rfl
@[simp] theorem State.setKeyPending_keyPending (b : Bool) : (s.setKeyPending b).keyPending = b := rfl
@[simp] theorem State.setKeyPending_drawReq (b : Bool) : (s.setKeyPending b).drawReq = s.drawReq := rfl
@[simp] theorem State.setKeyPending_soundReq (b : Bool) : (s.setKeyPending b).soundReq = s.soundReq := rfl
@[simp] theorem State.setKeyPending_fault (b : Bool) : (s.setKeyPending b).fault = s.fault := rfl
@[simp] theorem State.setKeyPending_config (b : Bool) : (s.setKeyPending b).config = s.config := rfl
@[simp] theorem State.setKeyPending_drawCount (b : Bool) : (s.setKeyPending b).drawCount = s.drawCount := rfl
@[simp] theorem State.setKeyPending_getV (b : Bool) (r : Nibble) : (s.setKeyPending b).getV r = s.getV r := rfl
@[simp] theorem State.setKeyPending_readByte (b : Bool) (r : Nat) : (s.setKeyPending b).readByte r = s.readByte r := rfl
@[simp] theorem State.setKeyPending_keyDownFlag (b : Bool) (r : Nibble) : (s.setKeyPending b).keyDownFlag r = s.keyDownFlag r := rfl

@[simp] theorem State.setDrawReq_mem (b : Bool) : (s.setDrawReq b).mem = s.mem := rfl
@[simp] theorem State.setDrawReq_v (b : Bool) : (s.setDrawReq b).v = s.v := rfl
@[simp] theorem State.setDrawReq_i (b : Bool) : (s.setDrawReq b).i = s.i := rfl
@[simp] theorem State.setDrawReq_pc (b : Bool) : (s.setDrawReq b).pc = s.pc := rfl
@[simp] theorem State.setDrawReq_stack (b : Bool) : (s.setDrawReq b).stack = s.stack := rfl
@[simp] theorem State.setDrawReq_sp (b : Bool) : (s.setDrawReq b).sp = s.sp := rfl
@[simp] theorem State.setDrawReq_dt (b : Bool) : (s.setDrawReq b).dt = s.dt := rfl
@[simp] theorem State.setDrawReq_st (b : Bool) : (s.setDrawReq b).st = s.st := rfl
@[simp] theorem State.setDrawReq_disp (b : Bool) : (s.setDrawReq b).disp = s.disp := rfl
@[simp] theorem State.setDrawReq_keys (b : Bool) : (s.setDrawReq b).keys = s.keys := rfl
@[simp] theorem State.setDrawReq_waiting (b : Bool) : (s.setDrawReq b).waiting = s.waiting := rfl
@[simp] theorem State.setDrawReq_lastKeyValid (b : Bool) : (s.setDrawReq b).lastKeyValid = s.lastKeyValid := rfl
@[simp] theorem State.setDrawReq_lastKey (b : Bool) : (s.setDrawReq b).lastKey = s.lastKey := rfl
@[simp] theorem State.setDrawReq_keyPending (b : Bool) : (s.setDrawReq b).keyPending = s.keyPending := rfl
@[simp] theorem State.setDrawReq_drawReq (b : Bool) : (s.setDrawReq b).drawReq = b := rfl
@[simp] theorem State.setDrawReq_soundReq (b : Bool) : (s.setDrawReq b).soundReq = s.soundReq := rfl
@[simp] theorem State.setDrawReq_fault (b : Bool) : (s.setDrawReq b).fault = s.fault := rfl
@[simp] theorem State.setDrawReq_config (b : Bool) : (s.setDrawReq b).config = s.config := rfl
@[simp] theorem State.setDrawReq_drawCount (b : Bool) : (s.setDrawReq b).drawCount = s.drawCount := rfl
@[simp] theorem State.setDrawReq_getV (b : Bool) (r : Nibble) : (s.setDrawReq b).getV r = s.getV r := rfl
@[simp] theorem State.setDrawReq_readByte (b : Bool) (r : Nat) : (s.setDrawReq b).readByte r = s.readByte r := rfl
@[simp] theorem State.setDrawReq_keyDownFlag (b : Bool) (r : Nibble) : (s.setDrawReq b).keyDownFlag r = s.keyDownFlag r := rfl

@[simp] theorem State.setSoundReq_mem (b : Bool) : (s.setSoundReq b).mem = s.mem := rfl
@[simp] theorem State.setSoundReq_v (b : Bool) : (s.setSoundReq b).v = s.v := rfl
@[simp] theorem State.setSoundReq_i (b : Bool) : (s.setSoundReq b).i = s.i := rfl
@[simp] theorem State.setSoundReq_pc (b : Bool) : (s.setSoundReq b).pc = s.pc := rfl
@[simp] theorem State.setSoundReq_stack (b : Bool) : (s.setSoundReq b).stack = s.stack := rfl
@[simp] theorem State.setSoundReq_sp (b : Bool) : (s.setSoundReq b).sp = s.sp := rfl
@[simp] theorem State.setSoundReq_dt (b : Bool) : (s.setSoundReq b).dt = s.dt := rfl
@[simp] theorem State.setSoundReq_st (b : Bool) : (s.setSoundReq b).st = s.st := rfl
@[simp] theorem State.setSoundReq_disp (b : Bool) : (s.setSoundReq b).disp = s.disp := rfl
@[simp] theorem State.setSoundReq_keys (b : Bool) : (s.setSoundReq b).keys = s.keys := rfl
@[simp] theorem State.setSoundReq_waiting (b : Bool) : (s.setSoundReq b).waiting = s.waiting := rfl
@[simp] theorem State.setSoundReq_lastKeyValid (b : Bool) : (s.setSoundReq b).lastKeyValid = s.lastKeyValid := rfl
@[simp] theorem State.setSoundReq_lastKey (b : Bool) : (s.setSoundReq b).lastKey = s.lastKey := rfl
@[simp] theorem State.setSoundReq_keyPending (b : Bool) : (s.setSoundReq b).keyPending = s.keyPending := rfl
@[simp] theorem State.setSoundReq_drawReq (b : Bool) : (s.setSoundReq b).drawReq = s.drawReq := rfl
@[simp] theorem State.setSoundReq_soundReq (b : Bool) : (s.setSoundReq b).soundReq = b := rfl
@[simp] theorem State.setSoundReq_fault (b : Bool) : (s.setSoundReq b).fault = s.fault := rfl
@[simp] theorem State.setSoundReq_config (b : Bool) : (s.setSoundReq b).config = s.config := rfl
@[simp] theorem State.setSoundReq_drawCount (b : Bool) : (s.setSoundReq b).drawCount = s.drawCount := rfl
@[simp] theorem State.setSoundReq_getV (b : Bool) (r : Nibble) : (s.setSoundReq b).getV r = s.getV r := rfl
@[simp] theorem State.setSoundReq_readByte (b : Bool) (r : Nat) : (s.setSoundReq b).readByte r = s.readByte r := rfl
@[simp] theorem State.setSoundReq_keyDownFlag (b : Bool) (r : Nibble) : (s.setSoundReq b).keyDownFlag r = s.keyDownFlag r := rfl

@[simp] theorem State.countDraw_mem : (s.countDraw).mem = s.mem := rfl
@[simp] theorem State.countDraw_v : (s.countDraw).v = s.v := rfl
@[simp] theorem State.countDraw_i : (s.countDraw).i = s.i := rfl
@[simp] theorem State.countDraw_pc : (s.countDraw).pc = s.pc := rfl
@[simp] theorem State.countDraw_stack : (s.countDraw).stack = s.stack := rfl
@[simp] theorem State.countDraw_sp : (s.countDraw).sp = s.sp := rfl
@[simp] theorem State.countDraw_dt : (s.countDraw).dt = s.dt := rfl
@[simp] theorem State.countDraw_st : (s.countDraw).st = s.st := rfl
@[simp] theorem State.countDraw_disp : (s.countDraw).disp = s.disp := rfl
@[simp] theorem State.countDraw_keys : (s.countDraw).keys = s.keys := rfl
@[simp] theorem State.countDraw_waiting : (s.countDraw).waiting = s.waiting := rfl
@[simp] theorem State.countDraw_lastKeyValid : (s.countDraw).lastKeyValid = s.lastKeyValid := rfl
@[simp] theorem State.countDraw_lastKey : (s.countDraw).lastKey = s.lastKey := rfl
@[simp] theorem State.countDraw_keyPending : (s.countDraw).keyPending = s.keyPending := rfl
@[simp] theorem State.countDraw_drawReq : (s.countDraw).drawReq = s.drawReq := rfl
@[simp] theorem State.countDraw_soundReq : (s.countDraw).soundReq = s.soundReq := rfl
@[simp] theorem State.countDraw_fault : (s.countDraw).fault = s.fault := rfl
@[simp] theorem State.countDraw_config : (s.countDraw).config = s.config := rfl
@[simp] theorem State.countDraw_drawCount : (s.countDraw).drawCount = s.drawCount + 1 := rfl
@[simp] theorem State.countDraw_getV (r : Nibble) : (s.countDraw).getV r = s.getV r := rfl
@[simp] theorem State.countDraw_readByte (r : Nat) : (s.countDraw).readByte r = s.readByte r := rfl
@[simp] theorem State.countDraw_keyDownFlag (r : Nibble) : (s.countDraw).keyDownFlag r = s.keyDownFlag r := rfl

@[simp] theorem State.takeFault_mem (a : Word) (f : FaultCode) : (s.takeFault a f).mem = s.mem := rfl
@[simp] theorem State.takeFault_v (a : Word) (f : FaultCode) : (s.takeFault a f).v = s.v := rfl
@[simp] theorem State.takeFault_i (a : Word) (f : FaultCode) : (s.takeFault a f).i = s.i := rfl
@[simp] theorem State.takeFault_pc (a : Word) (f : FaultCode) : (s.takeFault a f).pc = a := rfl
@[simp] theorem State.takeFault_stack (a : Word) (f : FaultCode) : (s.takeFault a f).stack = s.stack := rfl
@[simp] theorem State.takeFault_sp (a : Word) (f : FaultCode) : (s.takeFault a f).sp = s.sp := rfl
@[simp] theorem State.takeFault_dt (a : Word) (f : FaultCode) : (s.takeFault a f).dt = s.dt := rfl
@[simp] theorem State.takeFault_st (a : Word) (f : FaultCode) : (s.takeFault a f).st = s.st := rfl
@[simp] theorem State.takeFault_disp (a : Word) (f : FaultCode) : (s.takeFault a f).disp = s.disp := rfl
@[simp] theorem State.takeFault_keys (a : Word) (f : FaultCode) : (s.takeFault a f).keys = s.keys := rfl
@[simp] theorem State.takeFault_waiting (a : Word) (f : FaultCode) : (s.takeFault a f).waiting = s.waiting := rfl
@[simp] theorem State.takeFault_lastKeyValid (a : Word) (f : FaultCode) : (s.takeFault a f).lastKeyValid = s.lastKeyValid := rfl
@[simp] theorem State.takeFault_lastKey (a : Word) (f : FaultCode) : (s.takeFault a f).lastKey = s.lastKey := rfl
@[simp] theorem State.takeFault_keyPending (a : Word) (f : FaultCode) : (s.takeFault a f).keyPending = s.keyPending := rfl
@[simp] theorem State.takeFault_drawReq (a : Word) (f : FaultCode) : (s.takeFault a f).drawReq = s.drawReq := rfl
@[simp] theorem State.takeFault_soundReq (a : Word) (f : FaultCode) : (s.takeFault a f).soundReq = s.soundReq := rfl
@[simp] theorem State.takeFault_fault (a : Word) (f : FaultCode) : (s.takeFault a f).fault = f := rfl
@[simp] theorem State.takeFault_config (a : Word) (f : FaultCode) : (s.takeFault a f).config = s.config := rfl
@[simp] theorem State.takeFault_drawCount (a : Word) (f : FaultCode) : (s.takeFault a f).drawCount = s.drawCount := rfl
@[simp] theorem State.takeFault_getV (a : Word) (f : FaultCode) (r : Nibble) : (s.takeFault a f).getV r = s.getV r := rfl
@[simp] theorem State.takeFault_readByte (a : Word) (f : FaultCode) (r : Nat) : (s.takeFault a f).readByte r = s.readByte r := rfl
@[simp] theorem State.takeFault_keyDownFlag (a : Word) (f : FaultCode) (r : Nibble) : (s.takeFault a f).keyDownFlag r = s.keyDownFlag r := rfl

/-! ### The register file and the key flags: a read after a write -/

/-- A register reads as what was last written to it, and a write leaves the others alone. -/
@[simp] theorem State.setV_getV (x : Nibble) (b : Byte) (r : Nibble) :
    (s.setV x b).getV r = if r = x then b else s.getV r := by
  simp [State.setV, State.getV, Vector.getElem_set, BitVec.toNat_inj, eq_comm]

/-- A key flag reads as what was last written to it, and a write leaves the others alone. -/
@[simp] theorem State.setKey_keyDownFlag (k : Nibble) (b : Bool) (r : Nibble) :
    (s.setKey k b).keyDownFlag r = if r = k then b else s.keyDownFlag r := by
  simp [State.setKey, State.keyDownFlag, Vector.getElem_set, BitVec.toNat_inj, eq_comm]

/-- Two register files are equal when every register reads the same. -/
theorem v_ext {a b : Vector Byte 16} (h : ∀ x : Nibble, a[x.toNat]'x.isLt = b[x.toNat]'x.isLt) : a = b := by
  refine Vector.ext fun n hn => ?_
  have := h (BitVec.ofNat 4 n)
  simpa [Nat.mod_eq_of_lt hn] using this

/-- Two lists of key flags are equal when every key reads the same. -/
theorem keys_ext {a b : Vector Bool 16} (h : ∀ x : Nibble, a[x.toNat]'x.isLt = b[x.toNat]'x.isLt) : a = b := by
  refine Vector.ext fun n hn => ?_
  have := h (BitVec.ofNat 4 n)
  simpa [Nat.mod_eq_of_lt hn] using this

/-! ### What the composed operations are -/

theorem State.advance_eq : s.advance = s.setPC (s.pc + 2#16) := rfl

theorem State.stall_eq : s.stall = s.setPC (s.pc - 2#16) := rfl

theorem State.skipIf_eq (b : Bool) : s.skipIf b = s.setPC (if b then s.pc + 2#16 else s.pc) := by
  cases b <;> rfl

theorem State.requestSound_eq : s.requestSound = s.setSoundReq (s.soundReq || decide (s.st ≠ 0#8)) := by
  cases s
  simp only [State.requestSound, State.setSoundReq]
  split <;> simp [*]

theorem raise_eq (f : FaultCode) : raise f s = .next (s.takeFault (s.pc - 2#16) f) := rfl

/-- Everything a range-checked instruction can do (R63): take the fault, or its effect. -/
theorem withRange_eq (addr count : Nat) (t : State) :
    withRange addr count s t =
      .next (if 0 < count ∧ 0xFFF < addr + count - 1 then s.takeFault (s.pc - 2#16) .memOutOfRange else t) := by
  by_cases h : 0 < count ∧ 0xFFF < addr + count - 1 <;> simp [withRange, checkRange, h, raise_eq]

/-- Everything a push can do (R28). -/
theorem State.push_eq (w : Word) :
    (s.sp.val = 16 ∧ s.push w = none) ∨
    ∃ h : s.sp.val < 16, s.push w =
      some { s with stack := s.stack.set s.sp.val w h, sp := ⟨s.sp.val + 1, Nat.succ_lt_succ h⟩ } := by
  by_cases h : s.sp.val < 16
  · exact .inr ⟨h, by simp [State.push, h]⟩
  · exact .inl ⟨by have := s.sp.isLt; omega, by simp [State.push, h]⟩

/-- Everything a pop can do (R28). -/
theorem State.pop_eq :
    (s.sp.val = 0 ∧ s.pop = none) ∨
    ∃ h : 0 < s.sp.val, s.pop =
      some (s.stack[s.sp.val - 1]'(by have := s.sp.isLt; omega),
        { s with sp := ⟨s.sp.val - 1, by have := s.sp.isLt; omega⟩ }) := by
  by_cases h : 0 < s.sp.val
  · exact .inr ⟨h, by simp [State.pop, h]⟩
  · exact .inl ⟨by omega, by simp [State.pop, h]⟩

end Sys2Proof.Machine
end

