-- ==== Sys2Proof/Laws/Memory.lean ====
section
/-! SUPPORT. Memory: every operation keeps the canonical form, a read after a write, and what a block store, a block
load and a sequence of stored bytes leave. -/

namespace Sys2Proof.Machine

variable (c : Config)

/-! ### The canonical form -/

/-- A memory in form from `hi` upward is in form from any lower address upward. -/
theorem Memory.wfFrom_mono {lo hi : Nat} (h : lo ≤ hi) {m : List Host.Cell} (hm : wfFrom c hi m = true) :
    wfFrom c lo m = true := by
  cases m with
  | nil => rfl
  | cons p rest =>
    obtain ⟨a, w⟩ := p
    simp only [wfFrom, Bool.and_eq_true, decide_eq_true_eq, bne_iff_ne] at hm ⊢
    exact ⟨⟨⟨by omega, hm.1.1.2⟩, hm.1.2⟩, hm.2⟩

/-- Below its first address a memory in form reads as its reset contents. -/
theorem Memory.read_below {lo a : Nat} {m : List Host.Cell} (hm : wfFrom c lo m = true) (h : a < lo) :
    read c m a = resetByte c a := by
  induction m generalizing lo with
  | nil => rfl
  | cons p rest ih =>
    obtain ⟨b, w⟩ := p
    simp only [wfFrom, Bool.and_eq_true, decide_eq_true_eq] at hm
    have hb : a ≠ b := by omega
    simp only [read, hb, if_false]
    exact ih hm.2 (by omega)

/-- Putting a byte in front of higher cells keeps the form. -/
theorem Memory.cons_wfFrom {lo a : Nat} {w : Byte} {rest : List Host.Cell} (hlo : lo ≤ a) (ha : a < 0x1000)
    (hm : wfFrom c (a + 1) rest = true) : wfFrom c lo (cons c a w rest) = true := by
  unfold cons
  split
  · exact wfFrom_mono c (by omega) hm
  · rename_i hw
    simp [wfFrom, hlo, ha, hm, hw]

/-- Storing a byte keeps the form. -/
theorem Memory.put_wfFrom {lo a : Nat} (w : Byte) {m : List Host.Cell} (hlo : lo ≤ a) (ha : a < 0x1000)
    (hm : wfFrom c lo m = true) : wfFrom c lo (put c a w m) = true := by
  induction m generalizing lo with
  | nil => exact cons_wfFrom c hlo ha rfl
  | cons p rest ih =>
    obtain ⟨b, u⟩ := p
    have hm' := hm
    simp only [wfFrom, Bool.and_eq_true, decide_eq_true_eq, bne_iff_ne] at hm'
    unfold put
    split
    · refine cons_wfFrom c hlo ha ?_
      simp only [wfFrom, Bool.and_eq_true, decide_eq_true_eq, bne_iff_ne]
      exact ⟨⟨⟨by omega, hm'.1.1.2⟩, hm'.1.2⟩, hm'.2⟩
    · split
      · subst_vars
        exact cons_wfFrom c hlo ha hm'.2
      · simp only [wfFrom, Bool.and_eq_true, decide_eq_true_eq, bne_iff_ne]
        exact ⟨⟨⟨hm'.1.1.1, hm'.1.1.2⟩, hm'.1.2⟩, ih (by omega) hm'.2⟩

/-- Every store keeps the canonical form. -/
theorem Memory.write_wf (a : Nat) (w : Byte) {m : List Host.Cell} (hm : wf c m = true) :
    wf c (write c a w m) = true := by
  unfold write
  split
  · exact put_wfFrom c w (Nat.zero_le a) ‹_› hm
  · exact hm

/-- The memory of the reset state is in canonical form. -/
theorem reset_memCanonical : Memory.wf State.reset.config State.reset.mem = true := rfl

/-- A store by any meaning or host operation keeps the canonical form. -/
theorem State.writeByte_memWf {s : State} (a : Nat) (w : Byte) (h : Memory.wf s.config s.mem = true) :
    Memory.wf (s.writeByte a w).config (s.writeByte a w).mem = true :=
  Memory.write_wf s.config a w h

/-! ### A read after a write -/

/-- What a put byte in front of higher cells reads as. -/
theorem Memory.read_cons {a : Nat} {w : Byte} {rest : List Host.Cell} (hm : wfFrom c (a + 1) rest = true) (b : Nat) :
    read c (cons c a w rest) b = if b = a then w else read c rest b := by
  unfold cons
  split
  · rename_i hw
    split
    · subst_vars
      exact read_below c hm (by omega)
    · rfl
  · rfl

/-- A stored byte is read back, and every other address reads as before. -/
theorem Memory.read_put {lo a : Nat} (w : Byte) {m : List Host.Cell} (hm : wfFrom c lo m = true)
    (b : Nat) : read c (put c a w m) b = if b = a then w else read c m b := by
  induction m generalizing lo with
  | nil => exact read_cons c rfl b
  | cons p rest ih =>
    obtain ⟨d, u⟩ := p
    have hm' := hm
    simp only [wfFrom, Bool.and_eq_true, decide_eq_true_eq, bne_iff_ne] at hm'
    unfold put
    split
    · refine read_cons c ?_ b
      simp only [wfFrom, Bool.and_eq_true, decide_eq_true_eq, bne_iff_ne]
      exact ⟨⟨⟨by omega, hm'.1.1.2⟩, hm'.1.2⟩, hm'.2⟩
    · split
      · subst_vars
        rw [read_cons c hm'.2]
        simp only [read]
        split <;> rfl
      · simp only [read, ih hm'.2]
        split <;> split <;> simp_all

/-- A stored byte inside memory is read back, and every other address reads as before. -/
theorem Memory.read_write {a : Nat} (w : Byte) {m : List Host.Cell} (hm : wf c m = true) (ha : a < 0x1000) (b : Nat) :
    read c (write c a w m) b = if b = a then w else read c m b := by
  rw [write, if_pos ha]
  exact read_put c w hm b

/-- `MemRead` after `MemWrite` (R60). -/
theorem State.readByte_writeByte {s : State} {a : Nat} (w : Byte) (hs : Memory.wf s.config s.mem = true)
    (ha : a < 0x1000) (b : Nat) : (s.writeByte a w).readByte b = if b = a then w else s.readByte b :=
  Memory.read_write s.config w hs ha b

/-! ### Blocks of bytes -/

/-- A block store changes memory alone. -/
theorem storeBlock_frame (addr n : Nat) (s : State) : ∃ m, storeBlock addr n s = { s with mem := m } := by
  induction n with
  | zero => exact ⟨_, rfl⟩
  | succ n ih =>
    obtain ⟨m, h⟩ := ih
    exact ⟨_, by rw [storeBlock, h]; rfl⟩

/-- A block store keeps the canonical form. -/
theorem storeBlock_memWf (addr n : Nat) {s : State} (h : Memory.wf s.config s.mem = true) :
    Memory.wf (storeBlock addr n s).config (storeBlock addr n s).mem = true := by
  induction n with
  | zero => exact h
  | succ n ih => exact State.writeByte_memWf _ _ ih

/-- After a block store the bytes of the block are the registers, and every other byte reads as before. -/
theorem storeBlock_readByte (addr n : Nat) {s : State} (h : Memory.wf s.config s.mem = true)
    (hr : addr + n ≤ 0x1000) (b : Nat) :
    (storeBlock addr n s).readByte b =
      if addr ≤ b ∧ b < addr + n then s.getV (BitVec.ofNat 4 (b - addr)) else s.readByte b := by
  induction n with
  | zero =>
    have hb : ¬(addr ≤ b ∧ b < addr + 0) := by omega
    rw [if_neg hb, storeBlock]
  | succ n ih =>
    rw [storeBlock, State.readByte_writeByte _ (storeBlock_memWf addr n h) (by omega), ih (by omega)]
    by_cases hb : b = addr + n
    · subst hb
      simp
    · have : (addr ≤ b ∧ b < addr + (n + 1)) ↔ (addr ≤ b ∧ b < addr + n) := by omega
      simp [hb, this]

/-- A block load changes the register file alone. -/
theorem loadBlock_frame (addr n : Nat) (s : State) : ∃ v, loadBlock addr n s = { s with v := v } := by
  induction n with
  | zero => exact ⟨_, rfl⟩
  | succ n ih =>
    obtain ⟨v, h⟩ := ih
    exact ⟨_, by rw [loadBlock, h]; rfl⟩

/-- After a block load the registers below `n` are the bytes of the block, and the others are unchanged. -/
theorem loadBlock_getV (addr n : Nat) (s : State) (hn : n ≤ 16) (r : Nibble) :
    (loadBlock addr n s).getV r = if r.toNat < n then s.readByte (addr + r.toNat) else s.getV r := by
  induction n with
  | zero => rfl
  | succ n ih =>
    rw [loadBlock, State.setV_getV, ih (by omega)]
    by_cases hr : r.toNat = n
    · have : r = BitVec.ofNat 4 n := by rw [← hr]; simp
      rw [if_pos this, if_pos (by omega), hr]
    · have : r ≠ BitVec.ofNat 4 n := by
        rintro rfl
        simp only [BitVec.toNat_ofNat] at hr
        omega
      have h2 : r.toNat < n + 1 ↔ r.toNat < n := by omega
      simp [this, h2]

/-- The stored digits read back, and every other byte reads as before (R174). -/
theorem storeDigits_readByte {s : State} (b : Byte) (h : Memory.wf s.config s.mem = true)
    (hr : s.i.toNat + 2 ≤ 0xFFF) (a : Nat) :
    (s.storeDigits b).readByte a =
      if a = s.i.toNat then hundreds b else if a = s.i.toNat + 1 then tens b
      else if a = s.i.toNat + 2 then ones b else s.readByte a := by
  have h1 := State.writeByte_memWf (s.dataAddr 0) (hundreds b) h
  have h2 := State.writeByte_memWf (s.dataAddr 1) (tens b) h1
  unfold State.storeDigits
  rw [State.readByte_writeByte _ h2 (by simp [State.dataAddr]; omega),
    State.readByte_writeByte _ h1 (by simp [State.dataAddr]; omega),
    State.readByte_writeByte _ h (by simp [State.dataAddr]; omega)]
  simp only [State.dataAddr, Nat.add_zero]
  by_cases h0 : a = s.i.toNat
  · simp [h0]
  · by_cases h1 : a = s.i.toNat + 1
    · simp [h1]
    · simp [h0, h1]

end Sys2Proof.Machine
end

