-- ==== Sys2Proof/Laws/HostOps.lean ====
section
/-! SUPPORT. What the bytes of a loaded image leave in memory (R322), and what a timer's count down gives (R29, R292). -/

namespace Sys2Proof.Machine

/-- Storing an image writes memory alone. -/
theorem storeBytes_frame (a : Nat) (l : List Byte) (s : State) : ∃ m, storeBytes a l s = { s with mem := m } := by
  induction l generalizing a s with
  | nil => exact ⟨_, rfl⟩
  | cons b l ih => exact ih (a + 1) (s.writeByte a b)

/-- Storing an image keeps the canonical form. -/
theorem storeBytes_memWf (a : Nat) (l : List Byte) {s : State} (h : Memory.wf s.config s.mem = true) :
    Memory.wf (storeBytes a l s).config (storeBytes a l s).mem = true := by
  induction l generalizing a s with
  | nil => exact h
  | cons b l ih => exact ih (a + 1) (State.writeByte_memWf a b h)

/-- The bytes of an image stored inside memory, and every other byte, read as they should. -/
theorem storeBytes_readByte (a : Nat) (l : List Byte) {s : State} (h : Memory.wf s.config s.mem = true)
    (hl : a + l.length ≤ 0x1000) (c : Nat) :
    (storeBytes a l s).readByte c = if a ≤ c ∧ c < a + l.length then l[c - a]?.getD 0#8 else s.readByte c := by
  induction l generalizing a s with
  | nil => simp [storeBytes]
  | cons b l ih =>
    simp only [storeBytes, List.length_cons] at *
    rw [ih _ (State.writeByte_memWf a b h) (by omega), State.readByte_writeByte _ h (by omega)]
    by_cases h1 : c = a
    · subst h1
      simp
    · by_cases h2 : a + 1 ≤ c ∧ c < a + 1 + l.length
      · obtain ⟨d, rfl⟩ : ∃ d, c = a + (d + 1) := ⟨c - a - 1, by omega⟩
        have e : a + (d + 1) - (a + 1) = d := by omega
        rw [if_pos h2, if_pos (by omega), e]
        simp
      · rw [if_neg h2, if_neg h1, if_neg (by omega)]

/-- A timer counts down by one, and stays at 0. -/
theorem countDown_toNat (b : Byte) : (countDown b).toNat = b.toNat - 1 := by
  unfold countDown
  split
  · simp_all
  · rename_i h
    have h0 : b.toNat ≠ 0 := fun e => h (BitVec.eq_of_toNat_eq (by simpa using e))
    have := b.isLt
    simp [BitVec.toNat_sub]
    omega

end Sys2Proof.Machine
end

