-- ==== Sys2Proof/Laws/Input.lean ====
section
/-! SUPPORT. The least key that is down, said through the key flags (R212 case 3, R215). -/

namespace Sys2Proof.Machine

/-- There is no least key exactly when no key is down. -/
theorem State.leastKeyDown_eq_none (s : State) : s.leastKeyDown = none ↔ ∀ k : Nibble, s.keyDownFlag k = false := by
  simp only [State.leastKeyDown, Option.map_eq_none_iff, List.findIdx?_eq_none_iff, id, State.keyDownFlag]
  constructor
  · intro h k
    exact h _ (by simp [Vector.mem_toList_iff])
  · intro h b hb
    rw [Vector.mem_toList_iff, Vector.mem_iff_getElem] at hb
    obtain ⟨n, hn, rfl⟩ := hb
    simpa [Nat.mod_eq_of_lt hn] using h (BitVec.ofNat 4 n)

/-- The least key is down, and no key below it is. -/
theorem State.leastKeyDown_eq_some (s : State) (k : Nibble) :
    s.leastKeyDown = some k ↔
      s.keyDownFlag k = true ∧ ∀ j : Nibble, j.toNat < k.toNat → s.keyDownFlag j = false := by
  have key : s.leastKeyDown = some k ↔ s.keys.toList.findIdx? id = some k.toNat := by
    simp only [State.leastKeyDown, Option.map_eq_some_iff]
    constructor
    · rintro ⟨n, hn, rfl⟩
      have hlt := (List.findIdx?_eq_some_iff_getElem.1 hn).1
      simp only [Vector.length_toList] at hlt
      simp [Nat.mod_eq_of_lt hlt, hn]
    · exact fun h => ⟨_, h, by simp⟩
  rw [key, List.findIdx?_eq_some_iff_getElem]
  simp only [id, State.keyDownFlag, Vector.getElem_toList]
  constructor
  · rintro ⟨_, h1, h2⟩
    exact ⟨h1, fun j hj => by simpa using h2 j.toNat hj⟩
  · rintro ⟨h1, h2⟩
    have hk := k.isLt
    refine ⟨by simpa using hk, h1, fun j hj => ?_⟩
    have e : (BitVec.ofNat 4 j).toNat = j := by simp; omega
    simpa [e] using h2 (BitVec.ofNat 4 j) (by omega)

end Sys2Proof.Machine
end

