-- ==== Sys2Proof/Laws/PerInstr.lean ====
section
/-! SUPPORT. EncodingRow: the word that the encoder gives an instruction selects that instruction's own row of the
opcode table (R95, R104). One lemma for each constructor of Instr. -/

namespace Sys2Proof.Laws.EncodingRow

/-- The table has a row with the instruction's mnemonic, and the instruction's word selects it. -/
def Statement (i : Instr) : Prop := ∃ r ∈ opcodeTable, r.mnemonic = i.mnemonic ∧ r.selects (encode i) = true

/-- The statement from the row's place in the table and what its mask keeps of the word. -/
theorem of_row {i : Instr} (k : Nat) (r : OpcodeRow) (hr : opcodeTable[k]? = some r) (hm : r.mnemonic = i.mnemonic)
    (hs : encode i &&& r.mask = r.value) : Statement i :=
  ⟨r, List.mem_of_getElem? hr, hm, beq_iff_eq.2 hs⟩

theorem sys (nnn : Addr12) : Statement (.sys nnn) := of_row 2 _ rfl rfl ((mask_nnn _ _).trans rfl)
theorem cls : Statement .cls := of_row 0 _ rfl rfl rfl
theorem ret : Statement .ret := of_row 1 _ rfl rfl rfl
theorem jp (nnn : Addr12) : Statement (.jp nnn) := of_row 3 _ rfl rfl ((mask_nnn _ _).trans rfl)
theorem call (nnn : Addr12) : Statement (.call nnn) := of_row 4 _ rfl rfl ((mask_nnn _ _).trans rfl)
theorem seByte (x : Nibble) (nn : Byte) : Statement (.seByte x nn) := of_row 5 _ rfl rfl ((mask_xnn _ _ _).trans rfl)
theorem sneByte (x : Nibble) (nn : Byte) : Statement (.sneByte x nn) := of_row 6 _ rfl rfl ((mask_xnn _ _ _).trans rfl)
theorem seReg (x : Nibble) (y : Nibble) : Statement (.seReg x y) := of_row 7 _ rfl rfl ((mask_xyn _ _ _ _).trans rfl)
theorem ldByte (x : Nibble) (nn : Byte) : Statement (.ldByte x nn) := of_row 8 _ rfl rfl ((mask_xnn _ _ _).trans rfl)
theorem addByte (x : Nibble) (nn : Byte) : Statement (.addByte x nn) := of_row 9 _ rfl rfl ((mask_xnn _ _ _).trans rfl)
theorem ldReg (x : Nibble) (y : Nibble) : Statement (.ldReg x y) := of_row 10 _ rfl rfl ((mask_xy _ _ _ _).trans rfl)
theorem orReg (x : Nibble) (y : Nibble) : Statement (.orReg x y) := of_row 11 _ rfl rfl ((mask_xy _ _ _ _).trans rfl)
theorem andReg (x : Nibble) (y : Nibble) : Statement (.andReg x y) := of_row 12 _ rfl rfl ((mask_xy _ _ _ _).trans rfl)
theorem xorReg (x : Nibble) (y : Nibble) : Statement (.xorReg x y) := of_row 13 _ rfl rfl ((mask_xy _ _ _ _).trans rfl)
theorem addReg (x : Nibble) (y : Nibble) : Statement (.addReg x y) := of_row 14 _ rfl rfl ((mask_xy _ _ _ _).trans rfl)
theorem subReg (x : Nibble) (y : Nibble) : Statement (.subReg x y) := of_row 15 _ rfl rfl ((mask_xy _ _ _ _).trans rfl)
theorem shr (x : Nibble) (y : Nibble) : Statement (.shr x y) := of_row 16 _ rfl rfl ((mask_xy _ _ _ _).trans rfl)
theorem subnReg (x : Nibble) (y : Nibble) : Statement (.subnReg x y) := of_row 17 _ rfl rfl ((mask_xy _ _ _ _).trans rfl)
theorem shl (x : Nibble) (y : Nibble) : Statement (.shl x y) := of_row 18 _ rfl rfl ((mask_xy _ _ _ _).trans rfl)
theorem sneReg (x : Nibble) (y : Nibble) : Statement (.sneReg x y) := of_row 19 _ rfl rfl ((mask_xyn _ _ _ _).trans rfl)
theorem ldI (nnn : Addr12) : Statement (.ldI nnn) := of_row 20 _ rfl rfl ((mask_nnn _ _).trans rfl)
theorem jpV0 (nnn : Addr12) : Statement (.jpV0 nnn) := of_row 21 _ rfl rfl ((mask_nnn _ _).trans rfl)
theorem rnd (x : Nibble) (nn : Byte) : Statement (.rnd x nn) := of_row 22 _ rfl rfl ((mask_xnn _ _ _).trans rfl)
theorem drw (x : Nibble) (y : Nibble) (n : Nibble) : Statement (.drw x y n) := of_row 23 _ rfl rfl ((mask_xyn _ _ _ _).trans rfl)
theorem skp (x : Nibble) : Statement (.skp x) := of_row 24 _ rfl rfl ((mask_x _ _ _).trans rfl)
theorem sknp (x : Nibble) : Statement (.sknp x) := of_row 25 _ rfl rfl ((mask_x _ _ _).trans rfl)
theorem ldVxDT (x : Nibble) : Statement (.ldVxDT x) := of_row 26 _ rfl rfl ((mask_x _ _ _).trans rfl)
theorem ldVxK (x : Nibble) : Statement (.ldVxK x) := of_row 27 _ rfl rfl ((mask_x _ _ _).trans rfl)
theorem ldDTVx (x : Nibble) : Statement (.ldDTVx x) := of_row 28 _ rfl rfl ((mask_x _ _ _).trans rfl)
theorem ldSTVx (x : Nibble) : Statement (.ldSTVx x) := of_row 29 _ rfl rfl ((mask_x _ _ _).trans rfl)
theorem addI (x : Nibble) : Statement (.addI x) := of_row 30 _ rfl rfl ((mask_x _ _ _).trans rfl)
theorem ldF (x : Nibble) : Statement (.ldF x) := of_row 31 _ rfl rfl ((mask_x _ _ _).trans rfl)
theorem ldB (x : Nibble) : Statement (.ldB x) := of_row 32 _ rfl rfl ((mask_x _ _ _).trans rfl)
theorem storeRegs (x : Nibble) : Statement (.storeRegs x) := of_row 33 _ rfl rfl ((mask_x _ _ _).trans rfl)
theorem loadRegs (x : Nibble) : Statement (.loadRegs x) := of_row 34 _ rfl rfl ((mask_x _ _ _).trans rfl)

end Sys2Proof.Laws.EncodingRow
end

