-- ==== Sys2Proof/Laws/Step.lean ====
section
/-! SUPPORT. What one step can do, said once, and what the fetch reads. -/

namespace Sys2Proof.Machine

/-- Everything a fetch can do (R64, R65). -/
theorem State.fetch_eq (s : State) :
    (s.pc.toNat ≤ 0xFFE ∧ s.fetch = some (joinBytes (s.readByte s.pc.toNat) (s.readByte (s.pc.toNat + 1)))) ∨
    (0xFFE < s.pc.toNat ∧ s.fetch = none) := by
  by_cases h : s.pc.toNat ≤ 0xFFE
  · exact .inl ⟨h, if_pos h⟩
  · exact .inr ⟨by omega, if_neg h⟩

/-- A step of an unfaulted core whose fetch gives the word of an instruction is that instruction's `exec` (R247). -/
theorem step_of_instr {s : State} {w : Word} {i : Instr} (hf : s.fault = .noFault) (hw : s.fetch = some w)
    (hi : decodeWord w = some i) : step s = exec i s.advance := by
  simp [step, hf, hw, hi]

/-- A step of an unfaulted core whose fetch gives an Unknown word only advances the pc (R236). -/
theorem step_of_unknown {s : State} {w : Word} (hf : s.fault = .noFault) (hw : s.fetch = some w)
    (hi : decodeWord w = none) : step s = .next s.advance := by
  simp [step, hf, hw, hi, execUnknown]

/-- A step of an unfaulted core whose fetch is out of range takes the fault at the pc itself (R65). -/
theorem step_of_fetchFault {s : State} (hf : s.fault = .noFault) (hw : s.fetch = none) :
    step s = .next (s.takeFault s.pc .memOutOfRange) := by
  simp [step, hf, hw, fetchFault]

/-- A step of a faulted core changes nothing (R246). -/
theorem step_of_faulted {s : State} (hf : s.fault ≠ .noFault) : step s = .next s := by
  simp [step, hf, refusedCycle]

/-- Everything a step that answers a next state can have done. -/
theorem step_cases {s t : State} (h : step s = .next t) :
    (s.fault ≠ .noFault ∧ t = s) ∨
    (s.fault = .noFault ∧ s.fetch = none ∧ t = s.takeFault s.pc .memOutOfRange) ∨
    (∃ w, s.fault = .noFault ∧ s.fetch = some w ∧ decodeWord w = none ∧ t = s.advance) ∨
    (∃ w i, s.fault = .noFault ∧ s.fetch = some w ∧ decodeWord w = some i ∧ exec i s.advance = .next t) := by
  by_cases hf : s.fault = .noFault
  · right
    cases hw : s.fetch with
    | none =>
      rw [step_of_fetchFault hf hw] at h
      exact .inl ⟨hf, rfl, by injection h with h; exact h.symm⟩
    | some w =>
      right
      cases hi : decodeWord w with
      | none =>
        rw [step_of_unknown hf hw hi] at h
        exact .inl ⟨w, hf, rfl, hi, by injection h with h; exact h.symm⟩
      | some i =>
        rw [step_of_instr hf hw hi] at h
        exact .inr ⟨w, i, hf, rfl, hi, h⟩
  · rw [step_of_faulted hf] at h
    exact .inl ⟨hf, by injection h with h; exact h.symm⟩

/-- The fetch depends on the memory, the configuration and the pc alone. -/
theorem State.fetch_congr {s t : State} (hm : t.mem = s.mem) (hc : t.config = s.config) (hp : t.pc = s.pc) :
    t.fetch = s.fetch := by
  simp [State.fetch, State.readByte, hm, hc, hp]

end Sys2Proof.Machine
end

