-- ==== Sys2Proof/Tests/Slice0.lean ====
section
/-! SUPPORT. The model's own tests: the well-formedness checks, one word of every instruction decoded, one step of every
instruction and one use of every host operation with the values of spec/95_test_vectors.md (the vector is named in each
comment), and for every statement with hypotheses a witness that meets them. -/

namespace Sys2Proof.Tests

open Sys2Proof.Machine

/-! ### Helpers -/

/-- The reset state with the listed registers set. -/
def regs (vs : List (Nibble × Byte)) : State := vs.foldl (fun s p => s.setV p.1 p.2) State.reset

/-- `s` with the listed bytes stored. -/
def withBytes (bs : List (Nat × Byte)) (s : State) : State := bs.foldl (fun t p => t.writeByte p.1 p.2) s

/-- `s` with the listed keys down, as `key_down` leaves them outside a stall. -/
def withKeys (ks : List Nibble) (s : State) : State := ks.foldl (fun t k => t.setKey k true) s

/-- `s` with the listed pixels (column, row) set. -/
def withPixels (ps : List (Fin 64 × Fin 32)) (s : State) : State :=
  { s with disp := ps.foldl (fun d p => d.setPixel p.2 p.1 true) s.disp }

/-- `s` with `INDEX_INCREMENT` and `SHIFT_USES_VY` both set. -/
def otherConfig (s : State) : State := { s with config := { s.config with indexIncrement := true, shiftUsesVy := true } }

/-- The state of an outcome, `s` where it has none. -/
def outcomeState (s : State) : Host.Outcome State Fault Refusal → State
  | .next t => t
  | .fault _ => s
  | .refused _ => s

/-- The state after one step that fetches `w`. -/
def run (w : Nat) (s : State) : State := outcomeState s (step (s.withFetchWord 16 w))

/-- The result of that step. -/
def result (w : Nat) (s : State) : CycleResult := cycleResult (s.withFetchWord 16 w)

/-- The pixels (column, row) that are 1, out of the listed ones. -/
def lit (ps : List (Fin 64 × Fin 32)) (s : State) : List Bool := ps.map fun p => s.disp.pixel p.2 p.1

/-- How many pixels are 1. -/
def litCount (s : State) : Nat := (s.disp.toList.map fun row => row.toList.countP id).sum

/-! ### Well-formedness (R96, R235) -/

theorem test_wellFormed_sys_refuses_cls_and_ret :
    (Instr.sys 0x0E0#12).wellFormed = false ∧ (Instr.sys 0x0EE#12).wellFormed = false ∧
    (Instr.sys 0x0E1#12).wellFormed = true ∧ (Instr.sys 0x000#12).wellFormed = true := by decide

/-! ### Decoding: words written from the table of R95 and the examples of R104 -/

theorem test_decode_group0 :
    decodeWord 0x0123#16 = some (.sys 0x123#12) ∧ decodeWord 0x00E0#16 = some .cls ∧
    decodeWord 0x00EE#16 = some .ret ∧ decodeWord 0x00E1#16 = some (.sys 0x0E1#12) := by decide

theorem test_decode_jp : decodeWord 0x1ABC#16 = some (.jp 0xABC#12) := by decide
theorem test_decode_call : decodeWord 0x2210#16 = some (.call 0x210#12) := by decide
theorem test_decode_seByte : decodeWord 0x3A5C#16 = some (.seByte 0xA#4 0x5C#8) := by decide
theorem test_decode_sneByte : decodeWord 0x4311#16 = some (.sneByte 3#4 0x11#8) := by decide
theorem test_decode_seReg : decodeWord 0x5120#16 = some (.seReg 1#4 2#4) := by decide
theorem test_decode_ldByte : decodeWord 0x6A3E#16 = some (.ldByte 0xA#4 0x3E#8) := by decide
theorem test_decode_addByte : decodeWord 0x70FF#16 = some (.addByte 0#4 0xFF#8) := by decide
theorem test_decode_ldReg : decodeWord 0x8120#16 = some (.ldReg 1#4 2#4) := by decide
theorem test_decode_orReg : decodeWord 0x8121#16 = some (.orReg 1#4 2#4) := by decide
theorem test_decode_andReg : decodeWord 0x8122#16 = some (.andReg 1#4 2#4) := by decide
theorem test_decode_xorReg : decodeWord 0x8123#16 = some (.xorReg 1#4 2#4) := by decide
theorem test_decode_addReg : decodeWord 0x8104#16 = some (.addReg 1#4 0#4) := by decide
theorem test_decode_subReg : decodeWord 0x8125#16 = some (.subReg 1#4 2#4) := by decide
theorem test_decode_shr : decodeWord 0x8126#16 = some (.shr 1#4 2#4) := by decide
theorem test_decode_subnReg : decodeWord 0x8127#16 = some (.subnReg 1#4 2#4) := by decide
theorem test_decode_shl : decodeWord 0x812E#16 = some (.shl 1#4 2#4) := by decide
theorem test_decode_sneReg : decodeWord 0x9120#16 = some (.sneReg 1#4 2#4) := by decide
theorem test_decode_ldI : decodeWord 0xA300#16 = some (.ldI 0x300#12) := by decide
theorem test_decode_jpV0 : decodeWord 0xBFFF#16 = some (.jpV0 0xFFF#12) := by decide
theorem test_decode_rnd : decodeWord 0xC30F#16 = some (.rnd 3#4 0x0F#8) := by decide
theorem test_decode_drw : decodeWord 0xDAB5#16 = some (.drw 0xA#4 0xB#4 5#4) := by decide
theorem test_decode_skp : decodeWord 0xE19E#16 = some (.skp 1#4) := by decide
theorem test_decode_sknp : decodeWord 0xE1A1#16 = some (.sknp 1#4) := by decide
theorem test_decode_ldVxDT : decodeWord 0xF207#16 = some (.ldVxDT 2#4) := by decide
theorem test_decode_ldVxK : decodeWord 0xF10A#16 = some (.ldVxK 1#4) := by decide
theorem test_decode_ldDTVx : decodeWord 0xF115#16 = some (.ldDTVx 1#4) := by decide
theorem test_decode_ldSTVx : decodeWord 0xF118#16 = some (.ldSTVx 1#4) := by decide
theorem test_decode_addI : decodeWord 0xF21E#16 = some (.addI 2#4) := by decide
theorem test_decode_ldF : decodeWord 0xFA29#16 = some (.ldF 0xA#4) := by decide
theorem test_decode_ldB : decodeWord 0xF033#16 = some (.ldB 0#4) := by decide
theorem test_decode_storeRegs : decodeWord 0xFF55#16 = some (.storeRegs 0xF#4) := by decide
theorem test_decode_loadRegs : decodeWord 0xF265#16 = some (.loadRegs 2#4) := by decide

/-- The last nibble of groups 5 and 9 is not examined (R97, vector F14). -/
theorem test_decode_aliases :
    decodeWord 0x5127#16 = some (.seReg 1#4 2#4) ∧ decodeWord 0x912F#16 = some (.sneReg 1#4 2#4) := by decide

/-- The Unknown words of section 2.8. -/
theorem test_decode_unknown :
    [0x8008#16, 0x800F#16, 0x8129#16, 0xE000#16, 0xE09F#16, 0xE1A2#16, 0xF000#16, 0xF01F#16, 0xF30B#16, 0xF075#16,
      0xF085#16, 0xFFFF#16].all (fun w => decodeWord w = none) = true := by decide

/-- Two bytes an instruction, the high one first; one byte is none (R64, R90). -/
theorem test_decode_bytes :
    decode [0x23#8, 0x00#8, 0x60#8] = .instr (.call 0x300#12) [0x60#8] ∧ decode [0x60#8] = .truncated [0x60#8] ∧
    decode [0x80#8, 0x08#8] = .unknown 0x8008#16 [] := by decide

/-! ### Control flow (2.1) -/

/-- F1, F2. -/
theorem test_jp : (run 0x1ABC State.reset).pc = 0xABC#16 ∧
    (run 0x120A { State.reset with pc := 0x20A#16 }).pc = 0x20A#16 := by decide

/-- F4. -/
theorem test_call_pushes_next_address :
    let t := run 0x2210 { State.reset with pc := 0x204#16 }
    t.stack[0] = 0x206#16 ∧ t.sp.val = 1 ∧ t.pc = 0x210#16 := by decide

/-- The 17th nested call (R122). -/
theorem test_call_overflow :
    let s := { State.reset with sp := 16 }
    (run 0x2200 s).fault = .stackOverflow ∧ (run 0x2200 s).pc = 0x200#16 ∧ result 0x2200 s = .fatal .stackOverflow 0 := by
  decide

/-- F6. -/
theorem test_ret :
    let t := run 0x00EE { State.reset with pc := 0x212#16, sp := 1, stack := State.reset.stack.set 0 0x206#16 }
    t.sp.val = 0 ∧ t.pc = 0x206#16 ∧ t.stack[0] = 0x206#16 := by decide

/-- F7. -/
theorem test_ret_underflow :
    (run 0x00EE State.reset).fault = .stackUnderflow ∧ (run 0x00EE State.reset).pc = 0x200#16 ∧
    result 0x00EE State.reset = .fatal .stackUnderflow 0 := by decide

/-- F8, F9. -/
theorem test_seByte :
    (run 0x3000 { State.reset with pc := 0x208#16 }).pc = 0x20C#16 ∧
    (run 0x3000 { regs [(0#4, 0x04#8)] with pc := 0x208#16 }).pc = 0x20A#16 := by decide

/-- F10, F11. -/
theorem test_sneByte :
    (run 0x4311 { regs [(3#4, 0x10#8)] with pc := 0x300#16 }).pc = 0x304#16 ∧
    (run 0x4310 { regs [(3#4, 0x10#8)] with pc := 0x300#16 }).pc = 0x302#16 := by decide

/-- F12, F13. -/
theorem test_seReg :
    (run 0x5120 (regs [(1#4, 7#8), (2#4, 7#8)])).pc = 0x204#16 ∧
    (run 0x5120 (regs [(1#4, 7#8), (2#4, 8#8)])).pc = 0x202#16 := by decide

/-- F15, F16. -/
theorem test_sneReg :
    (run 0x9120 (regs [(1#4, 7#8), (2#4, 8#8)])).pc = 0x204#16 ∧ (run 0x9110 (regs [(1#4, 7#8)])).pc = 0x202#16 := by
  decide

/-- F17, F18. -/
theorem test_jpV0 :
    (run 0xB300 (regs [(0#4, 4#8)])).pc = 0x304#16 ∧ (run 0xBFFF (regs [(0#4, 0xFF#8)])).pc = 0x10FE#16 := by decide

/-- F3: the cycle after a jump to 0xFFF. -/
theorem test_fetch_out_of_range :
    let t := run 0x1FFF State.reset
    cycleResult t = .fatal .memOutOfRange 0x1000 ∧ (hostCycle t).fault = .memOutOfRange ∧ (hostCycle t).pc = 0xFFF#16 := by
  decide

/-! ### Registers and arithmetic (2.2) -/

/-- A1, A2. -/
theorem test_ldByte :
    (run 0x6A3E State.reset).getV 0xA#4 = 0x3E#8 ∧ (run 0x6FFF State.reset).getV 15#4 = 0xFF#8 := by decide

/-- A3, A5. -/
theorem test_addByte :
    let t := run 0x70FF (regs [(0#4, 5#8), (15#4, 7#8)])
    t.getV 0#4 = 4#8 ∧ t.getV 15#4 = 7#8 ∧ (run 0x7F02 (regs [(15#4, 0xFF#8)])).getV 15#4 = 1#8 := by decide

/-- A6. -/
theorem test_ldReg : (run 0x8120 (regs [(2#4, 0x9C#8)])).getV 1#4 = 0x9C#8 := by decide

/-- A7. -/
theorem test_orReg :
    let t := run 0x8121 (regs [(1#4, 0xF0#8), (2#4, 0x0F#8), (15#4, 1#8)])
    t.getV 1#4 = 0xFF#8 ∧ t.getV 15#4 = 1#8 := by decide

/-- A8. -/
theorem test_andReg :
    let t := run 0x8122 (regs [(1#4, 0xF0#8), (2#4, 0x3C#8), (15#4, 1#8)])
    t.getV 1#4 = 0x30#8 ∧ t.getV 15#4 = 1#8 := by decide

/-- A9. -/
theorem test_xorReg :
    let t := run 0x8123 (regs [(1#4, 0xF0#8), (2#4, 0x3C#8), (15#4, 1#8)])
    t.getV 1#4 = 0xCC#8 ∧ t.getV 15#4 = 1#8 := by decide

/-- A14. -/
theorem test_addReg_carry :
    let t := run 0x8124 (regs [(1#4, 0xFF#8), (2#4, 0xFF#8)])
    t.getV 1#4 = 0xFE#8 ∧ t.getV 15#4 = 1#8 := by decide

/-- A18, A19. -/
theorem test_addReg_flag_last :
    (run 0x8F14 (regs [(15#4, 0x10#8), (1#4, 0x20#8)])).getV 15#4 = 0#8 ∧
    (run 0x81F4 (regs [(1#4, 0xFF#8), (15#4, 1#8)])).getV 1#4 = 0#8 := by decide

/-- A23. -/
theorem test_subReg_borrow :
    let t := run 0x8125 (regs [(1#4, 3#8), (2#4, 0x0A#8), (15#4, 1#8)])
    t.getV 1#4 = 0xF9#8 ∧ t.getV 15#4 = 0#8 := by decide

/-- A24, A27. -/
theorem test_subReg_no_borrow :
    (run 0x8125 (regs [(1#4, 7#8), (2#4, 7#8)])).getV 15#4 = 1#8 ∧
    (run 0x8F15 (regs [(15#4, 9#8), (1#4, 3#8)])).getV 15#4 = 1#8 := by decide

/-- A39. -/
theorem test_shr_in_place :
    let t := run 0x8126 (regs [(1#4, 0xAA#8), (2#4, 5#8)])
    t.getV 1#4 = 0x55#8 ∧ t.getV 2#4 = 5#8 ∧ t.getV 15#4 = 0#8 := by decide

/-- A40. -/
theorem test_shr_from_vy :
    let t := run 0x8126 (otherConfig (regs [(1#4, 0xAA#8), (2#4, 5#8)]))
    t.getV 1#4 = 2#8 ∧ t.getV 2#4 = 5#8 ∧ t.getV 15#4 = 1#8 := by decide

/-- A30, A31. -/
theorem test_subnReg :
    (run 0x8127 (regs [(1#4, 3#8), (2#4, 0x0A#8)])).getV 1#4 = 7#8 ∧
    (run 0x8127 (regs [(1#4, 0x0A#8), (2#4, 3#8), (15#4, 1#8)])).getV 15#4 = 0#8 := by decide

/-- A43. -/
theorem test_shl_in_place :
    let t := run 0x810E (regs [(1#4, 0x81#8)])
    t.getV 1#4 = 2#8 ∧ t.getV 15#4 = 1#8 := by decide

/-- A47. -/
theorem test_shl_from_vy :
    let t := run 0x812E (otherConfig (regs [(1#4, 1#8), (2#4, 0xC0#8)]))
    t.getV 1#4 = 0x80#8 ∧ t.getV 15#4 = 1#8 := by decide

/-! ### Index register and memory (2.3), random (2.4) -/

/-- M2. -/
theorem test_ldI : (run 0xAFFF State.reset).i = 0xFFF#16 := by decide

/-- M4, M6. -/
theorem test_addI :
    (run 0xF21E { regs [(2#4, 1#8), (15#4, 7#8)] with i := 0xFFF#16 }).i = 0x1000#16 ∧
    (run 0xF21E { regs [(2#4, 0xFF#8)] with i := 0xFFF0#16 }).i = 0x00EF#16 := by decide

/-- M8 at both font bases, M10. -/
theorem test_ldF :
    (run 0xF029 (regs [(0#4, 7#8)])).i = 0x23#16 ∧ (run 0xF029 (regs [(0#4, 0x1A#8)])).i = 0x32#16 ∧
    (run 0xF029 { regs [(0#4, 7#8)] with config := { defaultConfig with fontBase := 0x50 } }).i = 0x73#16 := by decide

/-- M18. -/
theorem test_ldB :
    let t := run 0xF033 { regs [(0#4, 0xFE#8)] with i := 0xFFD#16 }
    [t.readByte 0xFFD, t.readByte 0xFFE, t.readByte 0xFFF] = [2#8, 5#8, 4#8] := by decide

/-- M19. -/
theorem test_ldB_out_of_range :
    let s := { regs [(0#4, 0xFE#8)] with i := 0xFFE#16 }
    (run 0xF033 s).fault = .memOutOfRange ∧ (run 0xF033 s).readByte 0xFFE = 0#8 ∧
    result 0xF033 s = .fatal .memOutOfRange 0x1000 ∧
    result 0xF033 { s with i := 0xFFFF#16 } = .fatal .memOutOfRange 0xFFFF := by decide

/-- M20, M21. -/
theorem test_storeRegs :
    let s := { regs [(0#4, 0x11#8), (1#4, 0x22#8), (2#4, 0x33#8), (3#4, 0x44#8)] with i := 0x400#16 }
    let t := run 0xF255 s
    [t.readByte 0x400, t.readByte 0x401, t.readByte 0x402, t.readByte 0x403] = [0x11#8, 0x22#8, 0x33#8, 0#8] ∧
    t.i = 0x400#16 ∧ (run 0xF255 (otherConfig s)).i = 0x403#16 := by decide

/-- M30: a font byte overwritten. -/
theorem test_storeRegs_font :
    let t := run 0xF055 (regs [(0#4, 0x99#8)])
    t.readByte 0 = 0x99#8 ∧ t.readByte 1 = 0x90#8 := by decide

/-- M25. -/
theorem test_loadRegs :
    let s := withBytes [(0x300, 2#8), (0x301, 5#8), (0x302, 4#8), (0x303, 9#8)] { regs [(3#4, 0x77#8)] with i := 0x300#16 }
    let t := run 0xF265 s
    [t.getV 0#4, t.getV 1#4, t.getV 2#4, t.getV 3#4] = [2#8, 5#8, 4#8, 0x77#8] ∧ t.i = 0x300#16 ∧
    (run 0xF265 (otherConfig s)).i = 0x303#16 := by decide

/-- M27. -/
theorem test_loadRegs_out_of_range :
    let t := run 0xF165 { regs [(0#4, 0x55#8), (1#4, 0x66#8)] with i := 0xFFF#16 }
    t.fault = .memOutOfRange ∧ t.getV 0#4 = 0x55#8 := by decide

/-- M29: the word stored by the program is the next one fetched. -/
theorem test_self_modifying_code :
    (hostCycle (run 0xF055 { regs [(0#4, 0x12#8)] with i := 0x202#16 })).pc = 0x200#16 := by decide

/-- N3, and N2 for whatever byte is drawn. -/
theorem test_rnd :
    (run 0xC300 (regs [(3#4, 0x55#8)])).getV 3#4 = 0#8 ∧
    (run 0xC3FF (regs [(3#4, 0x55#8)])).getV 3#4 = Config.freeDraw 0 :=
  ⟨BitVec.and_zero, BitVec.and_allOnes⟩

/-! ### Display (2.5) -/

/-- G1. -/
theorem test_cls :
    let t := run 0x00E0 (withPixels [(1, 0), (5, 5)] (regs [(15#4, 5#8)]))
    litCount t = 0 ∧ t.getV 15#4 = 5#8 ∧ t.drawReq = true := by decide

/-- G3: columns and rows wrap. -/
theorem test_drw_wraps :
    let t := run 0xD011 (withBytes [(0x300, 0xFF#8)] { regs [(0#4, 0x7C#8), (1#4, 0x20#8)] with i := 0x300#16 })
    lit [(60, 0), (63, 0), (0, 0), (3, 0), (4, 0)] t = [true, true, true, true, false] ∧ litCount t = 8 := by decide

/-- G6: a collision. -/
theorem test_drw_collision :
    let t := run 0xD011 (withBytes [(0x300, 0xC0#8)] (withPixels [(1, 0), (5, 5)] { State.reset with i := 0x300#16 }))
    lit [(0, 0), (1, 0), (5, 5)] t = [true, false, true] ∧ t.getV 15#4 = 1#8 := by decide

/-! ### Input (2.6) -/

/-- K1, K3. -/
theorem test_skp :
    (run 0xE19E (withKeys [7#4] (regs [(1#4, 7#8)]))).pc = 0x204#16 ∧
    (run 0xE19E (withKeys [7#4] (regs [(1#4, 0x17#8)]))).pc = 0x204#16 ∧
    (run 0xE19E (regs [(1#4, 7#8)])).pc = 0x202#16 := by decide

/-- K5, K6. -/
theorem test_sknp :
    (run 0xE1A1 (regs [(1#4, 7#8)])).pc = 0x204#16 ∧
    (run 0xE1A1 (withKeys [7#4] (regs [(1#4, 0xF7#8)]))).pc = 0x202#16 := by decide

/-- K8. -/
theorem test_ldVxK_key_already_down :
    let t := run 0xF30A (withKeys [4#4, 9#4] State.reset)
    t.getV 3#4 = 4#8 ∧ t.pc = 0x202#16 ∧ t.waiting = false ∧ t.lastKeyValid = false := by decide

/-- T6: the stall, the press of F, the press of 2, the release of F, the delivery. -/
theorem test_ldVxK_stall :
    let s := run 0xFF0A State.reset
    let t := keyUp 0xF#4 (keyDown 2#4 (keyDown 0xF#4 s))
    s.waiting = true ∧ s.pc = 0x200#16 ∧ hostCycle s = s ∧ t.keyPending = true ∧ t.waiting = false ∧
    (hostCycle t).getV 15#4 = 0x0F#8 ∧ (hostCycle t).pc = 0x202#16 ∧ (hostCycle t).keyPending = false := by decide

/-! ### Timers (2.7), system and Unknown words (2.8) -/

/-- D1. -/
theorem test_ldVxDT :
    let t := run 0xF107 { State.reset with dt := 0x2A#8 }
    t.getV 1#4 = 0x2A#8 ∧ t.dt = 0x2A#8 := by decide

/-- D2. -/
theorem test_ldDTVx : (run 0xF115 (regs [(1#4, 0xFF#8)])).dt = 0xFF#8 := by decide

/-- D3, D4, D5. -/
theorem test_ldSTVx :
    (run 0xF118 (regs [(1#4, 3#8)])).soundReq = true ∧ (run 0xF118 { State.reset with st := 9#8 }).soundReq = false ∧
    (run 0xF118 { State.reset with st := 9#8, soundReq := true }).soundReq = true := by decide

/-- Section 2.8 and H9. -/
theorem test_sys :
    result 0x0123 State.reset = .unknown 0x0123#16 ∧ (run 0x0123 State.reset).pc = 0x202#16 ∧
    cycleResult State.reset = .unknown 0#16 := by decide

/-- Section 2.8. -/
theorem test_unknown_word :
    result 0x8008 State.reset = .unknown 0x8008#16 ∧ (run 0x8008 State.reset).pc = 0x202#16 := by decide

/-! ### Host operations (2.9) -/

/-- T5 and D6. -/
theorem test_tick :
    let s := { State.reset with dt := 2#8, st := 2#8 }
    (tick s).dt = 1#8 ∧ (tick s).soundReq = true ∧ (tick (clearSound (tick s))).st = 0#8 ∧
    (tick (clearSound (tick s))).soundReq = false ∧ tick State.reset = State.reset := by decide

/-- H4: a shorter image leaves the rest. -/
theorem test_load :
    let s := hostLoad [9#8] (hostLoad [1#8, 2#8, 3#8, 4#8] State.reset)
    [s.readByte 0x200, s.readByte 0x201, s.readByte 0x203, s.readByte 0x204] = [9#8, 2#8, 4#8, 0#8] := by decide

/-- T7. -/
theorem test_load_limit :
    loadResult (List.replicate 3584 0xAB#8) = .ok ∧ loadResult (List.replicate 3585 0xAB#8) = .tooLarge := by
  simp only [loadResult, List.length_replicate]
  decide

/-- H5. -/
theorem test_faulted_schedule :
    scheduleResults [.load [0x00#8, 0xEE#8], .cycle, .cycle, .tick, .keyDown 3#4, .load [0x60#8, 0x01#8], .cycle, .reset]
      State.reset =
    [.load .ok, .cycle (.fatal .stackUnderflow 0), .cycle .refused, .none, .none, .load .ok, .cycle .refused, .none] := by
  decide

/-- T8. -/
theorem test_cls_scenario :
    let s := runSchedule [.reset, .load [0x00#8, 0xE0#8], .cycle] State.reset
    litCount s = 0 ∧ s.drawReq = true ∧ s.pc = 0x202#16 := by decide

/-- K11, H6, H8. -/
theorem test_flags_and_keys :
    { keyDown 3#4 State.reset with keys := State.reset.keys } = State.reset ∧
    (clearDraw { State.reset with drawReq := true }).drawReq = false ∧ keyUp 4#4 State.reset = State.reset := by decide

/-- H1, the font in memory. -/
theorem test_reset_font :
    State.reset.readByte 0 = 0xF0#8 ∧ State.reset.readByte 0x4F = 0x80#8 ∧ State.reset.readByte 0x50 = 0#8 := by decide

/-! ### The host's two definitions -/

theorem test_decodeTableWord :
    decodeTableWord 16 0x8104 = some (.addReg 1#4 0#4) ∧ decodeTableWord 16 0x8008 = none ∧
    decodeTableWord 16 0x00EE = some .ret := by decide

theorem test_withFetchWord :
    (State.reset.withFetchWord 16 0x8104).fetch = some 0x8104#16 ∧
    (({ State.reset with pc := 0xFFE#16 } : State).withFetchWord 16 0x1234).fetch = some 0x1234#16 := by decide

/-! ### Witnesses: for every statement with hypotheses, states and operands that meet them, at the boundary of each
clause -/

theorem witness_DecodeOfEncodeIsIdentity :
    (Instr.sys 0x0DF#12).WellFormed ∧ (Instr.sys 0x0EF#12).WellFormed ∧ (Instr.drw 0xF#4 0#4 0xF#4).WellFormed := by
  decide

theorem witness_EncodeOfDecodeIsCanonicalWord :
    decodeWord 0x5127#16 = some (.seReg 1#4 2#4) ∧ decodeWord 0x912F#16 = some (.sneReg 1#4 2#4) ∧
    decodeWord 0x812E#16 = some (.shl 1#4 2#4) := by decide

/-- The reset state with its pc at the last word of memory. -/
def lastWord : State := { State.reset with pc := 0xFFE#16 }

/-- The reset state with its pc at the last byte of memory. -/
def lastByte : State := { State.reset with pc := 0xFFF#16 }

theorem witness_FetchReadsBigEndianWord : lastWord.pc.toNat ≤ 0xFFE ∧ 0xFFE < lastByte.pc.toNat := by decide

theorem witness_StoredWordIsFetchedNext :
    lastWord.MemCanonical ∧ lastWord.pc.toNat ≤ 0xFFE ∧
    (withBytes [(0x000, 0x99#8), (0xFFF, 1#8)] lastByte).MemCanonical := by decide

/-- A core about to execute the word `w` at 0x200. -/
def at200 (w : Nat) (s : State) : State := s.withFetchWord 16 w

theorem witness_StepRunsTheDecodedInstruction :
    (lastWord.withFetchWord 16 0x8104).fault = .noFault ∧ (lastWord.withFetchWord 16 0x8104).pc.toNat ≤ 0xFFE ∧
    decodeWord (joinBytes ((lastWord.withFetchWord 16 0x8104).readByte 0xFFE)
      ((lastWord.withFetchWord 16 0x8104).readByte 0xFFF)) = some (.addReg 1#4 0#4) := by decide

/-- The reset state with `FAULT` set. -/
def faulted : State := { State.reset with fault := .memOutOfRange }

theorem witness_FaultedCoreRefusesUntilReset : faulted.Faulted ∧ HostOp.load [] ≠ HostOp.reset := by decide

theorem witness_FetchAboveMemoryFaults :
    lastByte.fault = .noFault ∧ 0xFFE < lastByte.pc.toNat ∧
    0xFFE < ({ State.reset with pc := 0xFFFF#16 } : State).pc.toNat := by decide

theorem witness_UnknownWordIsReportedNoOp :
    (at200 0x8008 State.reset).fault = .noFault ∧ (at200 0x8008 State.reset).fetch = some 0x8008#16 ∧
    decodeWord 0x8008#16 = none := by decide

theorem witness_SysIsReportedNoOp :
    (at200 0x0FFF State.reset).fault = .noFault ∧ (at200 0x0FFF State.reset).fetch = some 0x0FFF#16 ∧
    decodeWord 0x0FFF#16 = some (.sys 0xFFF#12) := by decide

/-- One state for each fault of the table, and one for no fault. -/
theorem witness_FaultTableDecidesEveryCycle :
    (at200 0x8104 State.reset).fault = .noFault ∧ (at200 0x8104 State.reset).fetch = some 0x8104#16 ∧
    decodeWord 0x8104#16 = some (.addReg 1#4 0#4) ∧ faultRow (.addReg 1#4 0#4) State.reset = none ∧
    faultRow (.call 0#12) { State.reset with sp := 16 } = some (.stackOverflow, 0) ∧
    faultRow (.call 0#12) { State.reset with sp := 15 } = none ∧
    faultRow .ret State.reset = some (.stackUnderflow, 0) ∧ faultRow .ret { State.reset with sp := 1 } = none ∧
    faultRow (.drw 0#4 0#4 2#4) { State.reset with i := 0xFFF#16 } = some (.memOutOfRange, 0x1000) ∧
    faultRow (.drw 0#4 0#4 1#4) { State.reset with i := 0xFFF#16 } = none ∧
    faultRow (.drw 0#4 0#4 0#4) { State.reset with i := 0xFFFF#16 } = none ∧
    faultRow (.ldB 0#4) { State.reset with i := 0xFFE#16 } = some (.memOutOfRange, 0x1000) ∧
    faultRow (.ldB 0#4) { State.reset with i := 0xFFD#16 } = none ∧
    faultRow (.storeRegs 15#4) { State.reset with i := 0xFF1#16 } = some (.memOutOfRange, 0x1000) ∧
    faultRow (.storeRegs 15#4) { State.reset with i := 0xFF0#16 } = none ∧
    faultRow (.loadRegs 1#4) { State.reset with i := 0xFFFF#16 } = some (.memOutOfRange, 0xFFFF) ∧
    faultRow (.loadRegs 0#4) { State.reset with i := 0xFFF#16 } = none := by decide

theorem witness_ResetLeavesPowerOnState : perform .reset (otherConfig faulted) = perform .reset (otherConfig faulted) ∧
    (State.reset = State.reset ∧ State.reset = State.reset) ∧ (79 < 80 ∧ 15 < 16) ∧
    (0 + 80 ≤ 0x50) := ⟨rfl, ⟨rfl, rfl⟩, by decide, by decide⟩

theorem witness_LoadWritesTheImageOrNothing :
    State.reset.MemCanonical ∧ (List.replicate 3584 0xAB#8).length ≤ 3584 ∧
    3584 < (List.replicate 3585 0xAB#8).length := by
  simp only [List.length_replicate]
  decide

/-- A core stalled at an `LD V1, K` at 0x200. -/
def stalled : State := run 0xF10A State.reset

/-- The same core after the press of key 15 has ended the stall. -/
def pressed : State := keyDown 0xF#4 stalled

theorem witness_KeyDownSetsItsFlagAndEndsAStall : stalled.waiting = true ∧ State.reset.waiting = false := by decide

theorem witness_OnlyTheHostClearsRequests :
    let s := { State.reset with drawReq := true, soundReq := true, st := 2#8 }
    step s = .next (hostCycle s) ∧ s.drawReq = true ∧ s.soundReq = true ∧ (perform .tick s).st ≠ 0#8 :=
  ⟨rfl, rfl, rfl, by decide⟩

/-- A state with a changed font byte and the last byte of memory stored. -/
def edges : State := withBytes [(0x000, 0x99#8), (0xFFF, 1#8)] State.reset

theorem witness_StepKeepsMemoryCanonical : edges.MemCanonical ∧ edges.mem.length = 2 ∧
    (∃ t, step edges = .next t) := ⟨by decide, by decide, _, rfl⟩

/-- The highest pc and the highest return address that any run reaches (R25, R123). -/
def highest : State := { State.reset with pc := 0x10FE#16, stack := State.reset.stack.set 15 0x1000#16 }

theorem witness_StepKeepsPcBounded : highest.PcBounded ∧ ∃ t, step highest = .next t :=
  ⟨⟨by decide, by decide⟩, _, rfl⟩

theorem stalled_keyWaitInv : stalled.KeyWaitInv :=
  ⟨by decide, by decide, by decide, fun _ => ⟨0xF10A#16, 1#4, by decide, by decide⟩⟩

theorem pressed_keyWaitInv : pressed.KeyWaitInv :=
  ⟨by decide, by decide, by decide, fun _ => ⟨0xF10A#16, 1#4, by decide, by decide⟩⟩

theorem witness_StepKeepsKeyWaitState :
    stalled.KeyWaitInv ∧ stalled.waiting = true ∧ pressed.KeyWaitInv ∧ pressed.keyPending = true ∧
    (∃ t, step stalled = .next t) ∧ ∃ t, step pressed = .next t :=
  ⟨stalled_keyWaitInv, by decide, pressed_keyWaitInv, by decide, ⟨_, rfl⟩, _, rfl⟩

theorem witness_HostOperationsKeepTheInvariants :
    edges.MemCanonical ∧ highest.PcBounded ∧ (HostOp.keyDown 0xF#4).Considerate stalled ∧ stalled.KeyWaitInv ∧
    (HostOp.load [0x60#8]).Considerate State.reset ∧ State.reset.KeyWaitInv :=
  ⟨by decide, ⟨by decide, by decide⟩, trivial, stalled_keyWaitInv, ⟨rfl, rfl⟩,
    ⟨by decide, by decide, by decide, fun h => absurd h (by decide)⟩⟩

theorem witness_NoInstructionWritesHostState :
    let s := { State.reset with drawReq := true, soundReq := true }
    exec .cls s = .next (outcomeState s (exec .cls s)) ∧ s.drawReq = true ∧ s.soundReq = true := ⟨rfl, rfl, rfl⟩

/-- A jump is none of the instructions that a clause names; a block move under `INDEX_INCREMENT` false keeps `I`. -/
theorem witness_OnlyNamedInstructionsWriteEachItem :
    (∃ t, exec (.jp 0#12) State.reset = .next t) ∧ (∃ t, exec (.storeRegs 0#4) State.reset = .next t) ∧
    State.reset.config.indexIncrement = false ∧ (∀ n, Instr.jp 0#12 ≠ .call n) ∧ Instr.jp 0#12 ≠ .ret ∧
    Instr.jp 0#12 ≠ .cls ∧ (∀ x y n, Instr.jp 0#12 ≠ .drw x y n) ∧
    (∀ x, Instr.jp 0#12 ≠ .ldB x ∧ Instr.jp 0#12 ≠ .storeRegs x) ∧ (∀ n, Instr.jp 0#12 ≠ .ldI n) ∧
    (∀ x, Instr.jp 0#12 ≠ .addI x ∧ Instr.jp 0#12 ≠ .ldF x) ∧ (∀ x, Instr.jp 0#12 ≠ .ldDTVx x) ∧
    (∀ x, Instr.jp 0#12 ≠ .ldSTVx x) ∧ (∀ x, Instr.jp 0#12 ≠ .ldVxK x) ∧ (∀ x nn, Instr.jp 0#12 ≠ .rnd x nn) := by
  refine ⟨⟨_, rfl⟩, ⟨_, rfl⟩, rfl, ?_⟩
  simp

/-- `LD B` at the last address it may store to raises no fault and is none of the instructions that write the pc; a
load of an immediate is none of those that write `FAULT` either. -/
theorem witness_OnlyNamedInstructionsWriteEachItem_pc_and_fault :
    (∃ t, exec (.ldB 0#4) { State.reset with i := 0xFFD#16 } = .next t) ∧
    faultRow (.ldB 0#4) { State.reset with i := 0xFFD#16 } = none ∧
    (∀ n, Instr.ldB 0#4 ≠ .jp n ∧ Instr.ldB 0#4 ≠ .jpV0 n ∧ Instr.ldB 0#4 ≠ .call n) ∧ Instr.ldB 0#4 ≠ .ret ∧
    (∀ x nn, Instr.ldB 0#4 ≠ .seByte x nn ∧ Instr.ldB 0#4 ≠ .sneByte x nn) ∧
    (∀ x y, Instr.ldB 0#4 ≠ .seReg x y ∧ Instr.ldB 0#4 ≠ .sneReg x y) ∧
    (∀ x, Instr.ldB 0#4 ≠ .skp x ∧ Instr.ldB 0#4 ≠ .sknp x ∧ Instr.ldB 0#4 ≠ .ldVxK x) ∧
    (∃ t, exec (.ldByte 0#4 0#8) State.reset = .next t) ∧ (∀ n, Instr.ldByte 0#4 0#8 ≠ .call n) ∧
    Instr.ldByte 0#4 0#8 ≠ .ret ∧ (∀ x y n, Instr.ldByte 0#4 0#8 ≠ .drw x y n) ∧
    ∀ x, Instr.ldByte 0#4 0#8 ≠ .ldB x ∧ Instr.ldByte 0#4 0#8 ≠ .storeRegs x ∧ Instr.ldByte 0#4 0#8 ≠ .loadRegs x := by
  refine ⟨⟨_, rfl⟩, by decide, ?_⟩
  simp only [ne_eq, reduceCtorEq, not_false_eq_true, and_self, implies_true, true_and, and_true]
  exact ⟨_, rfl⟩

theorem witness_RegistersChangeOnlyAsNamed :
    (∃ t, exec (.loadRegs 14#4) State.reset = .next t) ∧ mayWrite 15#4 (.loadRegs 14#4) = false ∧
    (∃ t, exec (.addReg 1#4 2#4) State.reset = .next t) ∧ mayWrite 2#4 (.addReg 1#4 2#4) = false :=
  ⟨⟨_, rfl⟩, by decide, ⟨_, rfl⟩, by decide⟩

theorem witness_CallPushesTheReturnAddress :
    ({ State.reset with sp := 15 } : State).sp.val < 16 ∧ ({ State.reset with sp := 16 } : State).sp.val = 16 := by decide

theorem witness_ReturnPopsTheReturnAddress :
    ({ State.reset with sp := 16 } : State).sp.val = 15 + 1 ∧ ({ State.reset with sp := 1 } : State).sp.val = 0 + 1 ∧
    State.reset.sp.val = 0 := by decide

theorem witness_ReturnAfterCallResumesAfterIt :
    ({ State.reset with sp := 15 } : State).sp.val < 16 ∧ 14 ≠ ({ State.reset with sp := 15 } : State).sp.val := by decide

theorem witness_KeySkipsTestTheKeyFlag :
    (7#4).toNat = ((regs [(1#4, 0xF7#8)]).getV 1#4).toNat % 16 ∧
    (7#4).toNat = ((regs [(1#4, 0x07#8)]).getV 1#4).toNat % 16 := by decide

theorem witness_ShiftsSetTheBitShiftedOutLast :
    let s := regs [(1#4, 0xAA#8), (2#4, 5#8)]
    0xAA = (if s.config.shiftUsesVy = true then s.getV 2#4 else s.getV 1#4).toNat ∧
    5 = (if (otherConfig s).config.shiftUsesVy = true then (otherConfig s).getV 2#4 else (otherConfig s).getV 1#4).toNat := by
  decide

theorem witness_RandomByteIsTheMaskedDraw : (0x0F#8).getLsbD 4 = false := by decide

theorem witness_BcdStoresTheThreeDigits :
    edges.MemCanonical ∧ ({ edges with i := 0xFFD#16 } : State).i.toNat + 2 ≤ 0xFFF ∧
    0xFFF < ({ edges with i := 0xFFE#16 } : State).i.toNat + 2 := by decide

theorem witness_BlockStoreWritesV0ToVx :
    edges.MemCanonical ∧ ({ edges with i := 0xFF0#16 } : State).i.toNat + (15#4).toNat ≤ 0xFFF ∧
    0xFFF < ({ edges with i := 0xFF1#16 } : State).i.toNat + (15#4).toNat := by decide

theorem witness_BlockLoadReadsV0ToVx :
    ({ edges with i := 0xFFF#16 } : State).i.toNat + (0#4).toNat ≤ 0xFFF ∧
    0xFFF < ({ edges with i := 0xFFF#16 } : State).i.toNat + (1#4).toNat := by decide

theorem witness_BlockStoreThenLoadRestores :
    edges.MemCanonical ∧ ({ edges with i := 0xFF0#16 } : State).i.toNat + (15#4).toNat ≤ 0xFFF := by decide

theorem witness_DrawXorsTheWrappedSprite :
    (∃ image, image = State.reset.spriteImage 0 0 1) ∧ (0#4).toNat = 0 ∧
    ({ State.reset with i := 0xFFF#16 } : State).i.toNat + (1#4).toNat ≤ 0x1000 ∧ 0 < (2#4).toNat ∧
    0x1000 < ({ State.reset with i := 0xFFF#16 } : State).i.toNat + (2#4).toNat :=
  ⟨⟨_, rfl⟩, by decide⟩

/-- T2: glyph 0 drawn at (0, 0) does not change V0 and V1. -/
theorem witness_TwoIdenticalDrawsRestoreTheDisplay :
    let t := outcomeState State.reset (exec (.drw 0#4 1#4 5#4) State.reset)
    State.reset.i.toNat + (5#4).toNat ≤ 0x1000 ∧ exec (.drw 0#4 1#4 5#4) State.reset = .next t ∧
    t.getV 0#4 = State.reset.getV 0#4 ∧ t.getV 1#4 = State.reset.getV 1#4 :=
  ⟨by decide, rfl, by decide, by decide⟩

/-- The four cases, in their order. -/
theorem witness_KeyWaitFollowsItsFourCases :
    pressed.keyPending = true ∧ (stalled.keyPending = false ∧ stalled.waiting = true) ∧
    ((withKeys [4#4, 9#4] State.reset).keyPending = false ∧ (withKeys [4#4, 9#4] State.reset).waiting = false ∧
      (withKeys [4#4, 9#4] State.reset).keyDownFlag 4#4 = true ∧
      ∀ j : Nibble, j.toNat < (4#4).toNat → (withKeys [4#4, 9#4] State.reset).keyDownFlag j = false) ∧
    State.reset.keyPending = false ∧ State.reset.waiting = false ∧ ∀ k : Nibble, State.reset.keyDownFlag k = false := by
  decide

theorem witness_KeyPressEndsTheStallInOneCycle :
    stalled.KeyWaitInv ∧ stalled.fault = .noFault ∧ stalled.waiting = true ∧ stalled.fetch = some 0xF10A#16 ∧
    decodeWord 0xF10A#16 = some (.ldVxK 1#4) :=
  ⟨stalled_keyWaitInv, by decide, by decide, by decide, by decide⟩

theorem witness_SafeRunsEndUnfaulted :
    State.reset.fault = .noFault ∧ SafeRun [.load [0x60#8, 0x01#8], .cycle, .tick] State.reset := by
  refine ⟨rfl, ?_⟩
  have h : scheduleResults [.load [0x60#8, 0x01#8], .cycle, .tick] State.reset = [.load .ok, .cycle .ok, .none] := by
    decide
  simp [SafeRun, h]

end Sys2Proof.Tests
end

section
/-! PROOFS. No instruction writes the host's part of the state: each update of Machine/Ops.lean that a meaning uses keeps
it, and every meaning is a composition of such updates (R34, R36, R39, R40). -/

namespace Sys2Proof.Machine

/-- What an instruction that went from `s` to `t` owes the host: the key flags, the last-key slot and the configuration
are those of `s`, and no request latch was cleared (R34, R36, R8, D23). -/
def HostStateKept (s t : State) : Prop :=
  t.keys = s.keys ∧ t.lastKey = s.lastKey ∧ t.lastKeyValid = s.lastKeyValid ∧ t.config = s.config ∧
  (s.drawReq = true → t.drawReq = true) ∧ (s.soundReq = true → t.soundReq = true)

@[simp] theorem HostStateKept.refl (s : State) : HostStateKept s s := ⟨rfl, rfl, rfl, rfl, id, id⟩

/-! ### The updates of the other items -/

section
variable {s t : State}

@[simp] theorem hostStateKept_writeByte (a : Nat) (w : Byte) :
    HostStateKept s (t.writeByte a w) ↔ HostStateKept s t := Iff.rfl
@[simp] theorem hostStateKept_setV (x : Nibble) (b : Byte) :
    HostStateKept s (t.setV x b) ↔ HostStateKept s t := Iff.rfl
@[simp] theorem hostStateKept_setI (w : Word) : HostStateKept s (t.setI w) ↔ HostStateKept s t := Iff.rfl
@[simp] theorem hostStateKept_setPC (w : Word) : HostStateKept s (t.setPC w) ↔ HostStateKept s t := Iff.rfl
@[simp] theorem hostStateKept_setDT (b : Byte) : HostStateKept s (t.setDT b) ↔ HostStateKept s t := Iff.rfl
@[simp] theorem hostStateKept_setST (b : Byte) : HostStateKept s (t.setST b) ↔ HostStateKept s t := Iff.rfl
@[simp] theorem hostStateKept_setDisp (d : Display) : HostStateKept s (t.setDisp d) ↔ HostStateKept s t := Iff.rfl
@[simp] theorem hostStateKept_setWaiting (b : Bool) :
    HostStateKept s (t.setWaiting b) ↔ HostStateKept s t := Iff.rfl
@[simp] theorem hostStateKept_setKeyPending (b : Bool) :
    HostStateKept s (t.setKeyPending b) ↔ HostStateKept s t := Iff.rfl
@[simp] theorem hostStateKept_countDraw : HostStateKept s t.countDraw ↔ HostStateKept s t := Iff.rfl
@[simp] theorem hostStateKept_takeFault (a : Word) (f : FaultCode) :
    HostStateKept s (t.takeFault a f) ↔ HostStateKept s t := Iff.rfl

@[simp] theorem hostStateKept_setResultFlag (x : Nibble) (b : Byte) (flag : Bool) :
    HostStateKept s (t.setResultFlag x b flag) ↔ HostStateKept s t := Iff.rfl
@[simp] theorem hostStateKept_storeDigits (b : Byte) :
    HostStateKept s (t.storeDigits b) ↔ HostStateKept s t := Iff.rfl
@[simp] theorem hostStateKept_stall : HostStateKept s t.stall ↔ HostStateKept s t := Iff.rfl
@[simp] theorem hostStateKept_skipIf (b : Bool) : HostStateKept s (t.skipIf b) ↔ HostStateKept s t := by
  rw [State.skipIf_eq, hostStateKept_setPC]

@[simp] theorem hostStateKept_storeBlock (addr n : Nat) :
    HostStateKept s (storeBlock addr n t) ↔ HostStateKept s t := by
  obtain ⟨m, h⟩ := storeBlock_frame addr n t
  rw [h]
  rfl

@[simp] theorem hostStateKept_loadBlock (addr n : Nat) :
    HostStateKept s (loadBlock addr n t) ↔ HostStateKept s t := by
  obtain ⟨v, h⟩ := loadBlock_frame addr n t
  rw [h]
  rfl

theorem hostStateKept_of_push {w : Word} (h : s.push w = some t) : HostStateKept s t := by
  obtain ⟨-, hp⟩ | ⟨_, hp⟩ := s.push_eq w <;> rw [hp] at h <;> cases h
  exact .refl s

theorem hostStateKept_of_pop {w : Word} (h : s.pop = some (w, t)) : HostStateKept s t := by
  obtain ⟨-, hp⟩ | ⟨_, hp⟩ := s.pop_eq <;> rw [hp] at h <;> cases h
  exact .refl s

/-! ### The request latches are only raised -/

theorem HostStateKept.setDrawReq_true (h : HostStateKept s t) : HostStateKept s (t.setDrawReq true) := by
  obtain ⟨hkeys, hkey, hvalid, hconfig, -, hsound⟩ := h
  exact ⟨hkeys, hkey, hvalid, hconfig, fun _ => rfl, hsound⟩

theorem HostStateKept.requestSound (h : HostStateKept s t) : HostStateKept s t.requestSound := by
  obtain ⟨hkeys, hkey, hvalid, hconfig, hdraw, hsound⟩ := h
  rw [State.requestSound_eq]
  exact ⟨hkeys, hkey, hvalid, hconfig, hdraw, fun hs => by simp [hsound hs]⟩

/-! ### The meanings that branch -/

theorem HostStateKept.of_withRange {u : State} {addr count : Nat} (hu : HostStateKept s u)
    (h : withRange addr count s u = .next t) : HostStateKept s t := by
  rw [withRange_eq] at h
  cases h
  split
  · simp
  · exact hu

theorem hostStateKept_of_execCall {nnn : Addr12} (h : execCall nnn s = .next t) : HostStateKept s t := by
  unfold execCall at h
  split at h <;> cases h
  case h_1 => simp
  case h_2 u hpush => exact (hostStateKept_setPC _).2 (hostStateKept_of_push hpush)

theorem hostStateKept_of_execRet (h : execRet s = .next t) : HostStateKept s t := by
  unfold execRet at h
  split at h <;> cases h
  case h_1 => simp
  case h_2 target u hpop => exact (hostStateKept_setPC _).2 (hostStateKept_of_pop hpop)

/-- None of the four cases of R212 writes the last-key slot: an end of a stall only reads it (log entry 10). -/
theorem hostStateKept_of_execLdVxK {x : Nibble} (h : execLdVxK x s = .next t) : HostStateKept s t := by
  unfold execLdVxK at h
  split_ifs at h with hpending hwaiting
  · cases h; simp
  · cases h; simp
  · split at h <;> cases h <;> simp

/-! ### All 35 instructions -/

theorem hostStateKept_of_exec {i : Instr} (h : exec i s = .next t) : HostStateKept s t := by
  cases i with
  | call nnn => exact hostStateKept_of_execCall h
  | ret => exact hostStateKept_of_execRet h
  | ldVxK x => exact hostStateKept_of_execLdVxK h
  | cls => cases h; exact HostStateKept.setDrawReq_true (by simp)
  | ldSTVx x => cases h; exact HostStateKept.requestSound (by simp)
  | drw x y n => exact .of_withRange (.setDrawReq_true (by simp)) h
  | ldB x => exact .of_withRange (by simp) h
  | storeRegs x => exact .of_withRange (by simp) h
  | loadRegs x => exact .of_withRange (by simp) h
  | sys | jp | jpV0 | seByte | sneByte | seReg | sneReg | skp | sknp
  | ldByte | addByte | ldReg | orReg | andReg | xorReg | addReg | subReg | shr | subnReg | shl | rnd | ldVxDT
  | ldI | addI | ldF | ldDTVx => cases h; simp

end

/-- Settles O27: every meaning is a composition of updates that keep the host's part of the state. -/
theorem noInstructionWritesHostState : Obligations.NoInstructionWritesHostState := by
  unfold Obligations.NoInstructionWritesHostState
  intro i s t h
  exact hostStateKept_of_exec h

end Sys2Proof.Machine
end

section
/-! PROOFS. What the meanings that branch can do, said once: `CALL` and `RET` through the stack (R122, R123), `LD Vx, K`
through its four cases (R212), and a cycle through its step (R247). -/

namespace Sys2Proof.Machine

variable {s t : State}

theorem execCall_cases {nnn : Addr12} (h : execCall nnn s = .next t) :
    (s.sp.val = 16 ∧ t = s.takeFault (s.pc - 2#16) .stackOverflow) ∨
    ∃ hsp : s.sp.val < 16, t =
      { s with stack := s.stack.set s.sp.val s.pc hsp, sp := ⟨s.sp.val + 1, Nat.succ_lt_succ hsp⟩,
               pc := zextAddr nnn } := by
  obtain ⟨hfull, hp⟩ | ⟨hsp, hp⟩ := s.push_eq s.pc <;> simp only [execCall, hp] at h <;> cases h
  · exact .inl ⟨hfull, rfl⟩
  · exact .inr ⟨hsp, rfl⟩

theorem execRet_cases (h : execRet s = .next t) :
    (s.sp.val = 0 ∧ t = s.takeFault (s.pc - 2#16) .stackUnderflow) ∨
    ∃ (_ : 0 < s.sp.val) (hlt : s.sp.val - 1 < 16), t =
      { s with sp := ⟨s.sp.val - 1, Nat.lt_succ_of_lt hlt⟩, pc := s.stack[s.sp.val - 1]'hlt } := by
  obtain ⟨hempty, hp⟩ | ⟨hsp, hp⟩ := s.pop_eq <;> simp only [execRet, hp] at h <;> cases h
  · exact .inl ⟨hempty, rfl⟩
  · exact .inr ⟨hsp, by have := s.sp.isLt; omega, rfl⟩

theorem execLdVxK_cases {x : Nibble} (h : execLdVxK x s = .next t) :
    (s.keyPending = true ∧ t = (s.setV x (zextNibble s.lastKey)).setKeyPending false) ∨
    (s.keyPending = false ∧ s.waiting = true ∧ t = s.stall) ∨
    (s.keyPending = false ∧ s.waiting = false ∧
      ∃ k, s.leastKeyDown = some k ∧ t = s.setV x (zextNibble k)) ∨
    (s.keyPending = false ∧ s.waiting = false ∧ s.leastKeyDown = none ∧ t = (s.setWaiting true).stall) := by
  unfold execLdVxK at h
  split_ifs at h with hpending hwaiting
  · cases h
    exact .inl ⟨hpending, rfl⟩
  · cases h
    exact .inr (.inl ⟨by simpa using hpending, hwaiting, rfl⟩)
  · obtain ⟨hp, hw⟩ : s.keyPending = false ∧ s.waiting = false := by simp [hpending, hwaiting]
    split at h <;> cases h
    case h_1 k hk => exact .inr (.inr (.inl ⟨hp, hw, k, hk, rfl⟩))
    case h_2 hk => exact .inr (.inr (.inr ⟨hp, hw, hk, rfl⟩))

/-- A range-checked instruction has a property that its fault and its effect both have (R63). -/
theorem of_withRange {P : State → Prop} {u : State} {addr count : Nat} (h : withRange addr count s u = .next t)
    (hfault : P (s.takeFault (s.pc - 2#16) .memOutOfRange)) (hu : P u) : P t := by
  rw [withRange_eq] at h
  cases h
  split
  · exact hfault
  · exact hu

/-- A stall undoes the fetch's advance of the pc: nothing of the state is changed (R12). -/
@[simp] theorem State.stall_advance (s : State) : s.advance.stall = s := by
  rw [State.stall_eq, State.advance_eq, State.setPC_pc, BitVec.add_sub_cancel]
  rfl

/-- A cycle has a property that the state it is issued in and every next state of its step have. -/
theorem of_hostCycle {P : State → Prop} (hs : P s) (hstep : ∀ t, step s = .next t → P t) : P (hostCycle s) := by
  unfold hostCycle
  split
  · exact hstep _ ‹_›
  · exact hs
  · exact hs

theorem tick_eq (s : State) :
    tick s = ((s.setDT (countDown s.dt)).setST (countDown s.st)).setSoundReq
      (s.soundReq || decide (countDown s.st ≠ 0#8)) :=
  State.requestSound_eq _

/-- Everything a key press can do (R250). -/
theorem keyDown_cases (k : Nibble) (s : State) :
    (s.waiting = true ∧ keyDown k s = (((s.setKey k true).setWaiting false).setLastKey k).setKeyPending true) ∨
    (s.waiting = false ∧ keyDown k s = s.setKey k true) := by
  cases hw : s.waiting <;> simp [keyDown, hw]

theorem hostLoad_frame (image : List Byte) (s : State) : ∃ m, hostLoad image s = { s with mem := m } := by
  unfold hostLoad
  split
  · exact ⟨_, rfl⟩
  · exact storeBytes_frame _ _ _

end Sys2Proof.Machine
end

section
/-! PROOFS. What every instruction but `LD Vx, K` does to the items that the invariants speak of: memory stays canonical,
the pc and the stack stay bounded, the key-wait bits stay as they are (log entry 8, R25, R123, R42). -/

namespace Sys2Proof.Machine

/-- The pc as the fetch leaves it: A + 2 for an instruction at A ≤ 0xFFE (R12, R65). -/
def State.JustFetched (s : State) : Prop := 2 ≤ s.pc.toNat ∧ s.pc.toNat ≤ 0x1000

/-- What an instruction other than `LD Vx, K` that went from `s` to `t` owes the invariants: the memory and the bounds
are kept, and the key-wait bits are those of `s` (R42). -/
structure OrdinaryEffect (s t : State) : Prop where
  memCanonical : s.MemCanonical → t.MemCanonical
  pcBounded : s.JustFetched → s.PcBounded → t.PcBounded
  waiting : t.waiting = s.waiting
  keyPending : t.keyPending = s.keyPending

variable {s t : State}

theorem State.justFetched_advance {w : Word} (h : s.fetch = some w) : s.advance.JustFetched := by
  obtain ⟨hpc, -⟩ | ⟨-, hnone⟩ := s.fetch_eq
  · rw [State.JustFetched, State.advance_eq, State.setPC_pc]
    constructor <;> bv_omega
  · simp [hnone] at h

theorem State.JustFetched.instrAddr_le (h : s.JustFetched) : (s.pc - 2#16).toNat ≤ 0x10FE := by
  obtain ⟨hlo, hhi⟩ := h
  bv_omega

theorem State.JustFetched.skip_le (h : s.JustFetched) : (s.pc + 2#16).toNat ≤ 0x10FE := by
  obtain ⟨hlo, hhi⟩ := h
  bv_omega

theorem zextAddr_le (nnn : Addr12) : (zextAddr nnn).toNat ≤ 0xFFF := by
  have := nnn.isLt
  simp only [zextAddr, BitVec.toNat_setWidth]
  omega

/-- The highest target of `JP V0` is 0xFFF + 0xFF (R25, R129). -/
theorem zextAddr_add_zextByte_le (nnn : Addr12) (b : Byte) : (zextAddr nnn + zextByte b).toNat ≤ 0x10FE := by
  have hn := zextAddr_le nnn
  have hb : (zextByte b).toNat ≤ 0xFF := by
    have := b.isLt
    simp only [zextByte, BitVec.toNat_setWidth]
    omega
  bv_omega

theorem State.PcBounded.setPC {w : Word} (hs : s.PcBounded) (hw : w.toNat ≤ 0x10FE) : (s.setPC w).PcBounded :=
  ⟨hw, hs.2⟩

/-! ### The updates -/

theorem OrdinaryEffect.of_setPC {w : Word} (hw : s.JustFetched → w.toNat ≤ 0x10FE) :
    OrdinaryEffect s (s.setPC w) :=
  ⟨id, fun hf hs => hs.setPC (hw hf), rfl, rfl⟩

theorem OrdinaryEffect.of_skipIf (b : Bool) : OrdinaryEffect s (s.skipIf b) := by
  rw [State.skipIf_eq]
  refine .of_setPC fun hf => ?_
  split
  · exact hf.skip_le
  · exact hf.2.trans (by decide)

theorem OrdinaryEffect.of_takeFault (f : FaultCode) : OrdinaryEffect s (s.takeFault (s.pc - 2#16) f) :=
  ⟨id, fun hf hs => hs.setPC hf.instrAddr_le, rfl, rfl⟩

theorem OrdinaryEffect.of_withRange {u : State} {addr count : Nat} (h : withRange addr count s u = .next t)
    (hu : OrdinaryEffect s u) : OrdinaryEffect s t :=
  Machine.of_withRange h (.of_takeFault _) hu

theorem OrdinaryEffect.of_storeDigits (b : Byte) : OrdinaryEffect s (s.storeDigits b) :=
  ⟨fun hs => State.writeByte_memWf _ _ (State.writeByte_memWf _ _ (State.writeByte_memWf _ _ hs)),
    fun _ => id, rfl, rfl⟩

theorem OrdinaryEffect.of_storeBlock (addr n : Nat) (w : Word) :
    OrdinaryEffect s ((storeBlock addr n s).setI w) := by
  obtain ⟨m, hm⟩ := storeBlock_frame addr n s
  have hwf : s.MemCanonical → (storeBlock addr n s).MemCanonical := storeBlock_memWf addr n
  rw [hm] at hwf ⊢
  exact ⟨hwf, fun _ => id, rfl, rfl⟩

theorem OrdinaryEffect.of_loadBlock (addr n : Nat) (w : Word) :
    OrdinaryEffect s ((loadBlock addr n s).setI w) := by
  obtain ⟨v, hv⟩ := loadBlock_frame addr n s
  rw [hv]
  exact ⟨id, fun _ => id, rfl, rfl⟩

/-! ### The instructions -/

/-- A pushed return address is the advanced pc, at most 0x1000 (R123). -/
theorem OrdinaryEffect.of_execCall {nnn : Addr12} (h : execCall nnn s = .next t) : OrdinaryEffect s t := by
  obtain ⟨-, rfl⟩ | ⟨hsp, rfl⟩ := execCall_cases h
  · exact .of_takeFault _
  · refine ⟨id, fun ⟨_, hret⟩ ⟨_, hstack⟩ => ⟨(zextAddr_le nnn).trans (by decide), fun n hn => ?_⟩, rfl, rfl⟩
    simp only [Vector.getElem_set]
    split
    · exact hret
    · exact hstack n hn

theorem OrdinaryEffect.of_execRet (h : execRet s = .next t) : OrdinaryEffect s t := by
  obtain ⟨-, rfl⟩ | ⟨-, hlt, rfl⟩ := execRet_cases h
  · exact .of_takeFault _
  · exact ⟨id, fun _ ⟨_, hstack⟩ => ⟨(hstack _ hlt).trans (by decide), hstack⟩, rfl, rfl⟩

theorem ordinaryEffect_of_exec {i : Instr} (hi : ∀ x, i ≠ .ldVxK x) (h : exec i s = .next t) :
    OrdinaryEffect s t := by
  cases i with
  | ldVxK x => exact absurd rfl (hi x)
  | call nnn => exact .of_execCall h
  | ret => exact .of_execRet h
  | jp nnn => cases h; exact .of_setPC fun _ => (zextAddr_le nnn).trans (by decide)
  | jpV0 nnn => cases h; exact .of_setPC fun _ => zextAddr_add_zextByte_le nnn _
  | seByte | sneByte | seReg | sneReg | skp | sknp => cases h; exact .of_skipIf _
  | drw x y n => exact .of_withRange h ⟨id, fun _ => id, rfl, rfl⟩
  | ldB x => exact .of_withRange h (.of_storeDigits _)
  | storeRegs x => exact .of_withRange h (.of_storeBlock _ _ _)
  | loadRegs x => exact .of_withRange h (.of_loadBlock _ _ _)
  | ldSTVx x =>
    cases h
    rw [State.requestSound_eq]
    exact ⟨id, fun _ => id, rfl, rfl⟩
  | sys | cls | ldByte | addByte | ldReg | orReg | andReg | xorReg | addReg | subReg | shr | subnReg | shl | rnd
  | ldVxDT | ldDTVx | ldI | addI | ldF => cases h; exact ⟨id, fun _ => id, rfl, rfl⟩

end Sys2Proof.Machine
end

section
/-! PROOFS. Every step keeps the canonical form of the memory (log entry 8) and the bounds of the pc and the stack (R25,
R123). -/

namespace Sys2Proof.Machine

variable {s t : State}

theorem State.MemCanonical.of_execLdVxK {x : Nibble} (hs : s.MemCanonical) (h : execLdVxK x s = .next t) :
    t.MemCanonical := by
  obtain ⟨-, rfl⟩ | ⟨-, -, rfl⟩ | ⟨-, -, k, -, rfl⟩ | ⟨-, -, -, rfl⟩ := execLdVxK_cases h <;> exact hs

/-- `LD Vx, K` leaves the pc advanced or puts it back at the instruction, and does not touch the stack. -/
theorem State.PcBounded.of_execLdVxK {x : Nibble} (hs : s.PcBounded) (hf : s.JustFetched)
    (h : execLdVxK x s = .next t) : t.PcBounded := by
  obtain ⟨-, rfl⟩ | ⟨-, -, rfl⟩ | ⟨-, -, k, -, rfl⟩ | ⟨-, -, -, rfl⟩ := execLdVxK_cases h
  · exact hs
  · exact hs.setPC hf.instrAddr_le
  · exact hs
  · exact hs.setPC hf.instrAddr_le

theorem State.MemCanonical.of_exec {i : Instr} (hs : s.MemCanonical) (h : exec i s = .next t) : t.MemCanonical := by
  by_cases hi : ∃ x, i = .ldVxK x
  · obtain ⟨x, rfl⟩ := hi
    exact .of_execLdVxK hs h
  · exact (ordinaryEffect_of_exec (not_exists.1 hi) h).memCanonical hs

theorem State.PcBounded.of_exec {i : Instr} (hs : s.PcBounded) (hf : s.JustFetched) (h : exec i s = .next t) :
    t.PcBounded := by
  by_cases hi : ∃ x, i = .ldVxK x
  · obtain ⟨x, rfl⟩ := hi
    exact hs.of_execLdVxK hf h
  · exact (ordinaryEffect_of_exec (not_exists.1 hi) h).pcBounded hf hs

theorem State.PcBounded.advance {w : Word} (hs : s.PcBounded) (hw : s.fetch = some w) : s.advance.PcBounded :=
  hs.setPC ((State.justFetched_advance hw).2.trans (by decide))

theorem State.MemCanonical.of_step (hs : s.MemCanonical) (h : step s = .next t) : t.MemCanonical := by
  obtain ⟨-, rfl⟩ | ⟨-, -, rfl⟩ | ⟨w, -, -, -, rfl⟩ | ⟨w, i, -, -, -, hexec⟩ := step_cases h
  · exact hs
  · exact hs
  · exact hs
  · exact .of_exec (s := s.advance) hs hexec

theorem State.PcBounded.of_step (hs : s.PcBounded) (h : step s = .next t) : t.PcBounded := by
  obtain ⟨-, rfl⟩ | ⟨-, -, rfl⟩ | ⟨w, -, hw, -, rfl⟩ | ⟨w, i, -, hw, -, hexec⟩ := step_cases h
  · exact hs
  · exact hs
  · exact hs.advance hw
  · exact (hs.advance hw).of_exec (State.justFetched_advance hw) hexec

end Sys2Proof.Machine
end

section
/-! PROOFS. Every step keeps the key-wait invariants (R38): a stalled or key-pending core executes its `LD Vx, K` and
nothing else, and every other instruction runs on a core that is neither. -/

namespace Sys2Proof.Machine

variable {s t : State}

/-- The key-wait invariants constrain no core that is neither stalled nor key-pending. -/
theorem State.KeyWaitInv.of_idle (hw : s.waiting = false) (hp : s.keyPending = false) : s.KeyWaitInv := by
  constructor <;> simp [hw, hp]

theorem State.KeyWaitInv.idle_of_decode_ne {w : Word} (hs : s.KeyWaitInv) (hw : s.fetch = some w)
    (hi : ∀ x, decodeWord w ≠ some (.ldVxK x)) : s.waiting = false ∧ s.keyPending = false := by
  have hidle : ¬(s.waiting = true ∨ s.keyPending = true) := by
    intro hbusy
    obtain ⟨w', x, hw', hx⟩ := hs.atKeyWait hbusy
    cases hw'.symm.trans hw
    exact hi x hx
  simpa using hidle

/-- A stall that begins does so at its `LD Vx, K` and with no key down (R212). -/
theorem State.KeyWaitInv.of_stallBegun (hat : s.AtKeyWait) (hkeys : s.leastKeyDown = none)
    (hp : s.keyPending = false) : (s.setWaiting true).KeyWaitInv where
  noKeyDown _ := s.leastKeyDown_eq_none.1 hkeys
  notPending _ := hp
  lastValid h := absurd (hp.symm.trans h) (by decide)
  atKeyWait _ := hat

theorem State.KeyWaitInv.of_execLdVxK {x : Nibble} (hs : s.KeyWaitInv) (hat : s.AtKeyWait)
    (h : execLdVxK x s.advance = .next t) : t.KeyWaitInv := by
  obtain ⟨hp, rfl⟩ | ⟨-, -, rfl⟩ | ⟨hp, hw, k, -, rfl⟩ | ⟨hp, -, hkeys, rfl⟩ := execLdVxK_cases h
  · have hw : s.waiting = false :=
      Bool.eq_false_iff.2 fun hw => absurd (hp.symm.trans (hs.notPending hw)) (by decide)
    exact .of_idle hw rfl
  · rwa [State.stall_advance]
  · exact .of_idle hw hp
  · have hcomm : s.advance.setWaiting true = (s.setWaiting true).advance := rfl
    rw [hcomm, State.stall_advance]
    exact .of_stallBegun hat hkeys hp

theorem State.KeyWaitInv.of_step (hs : s.KeyWaitInv) (h : step s = .next t) : t.KeyWaitInv := by
  obtain ⟨-, rfl⟩ | ⟨-, -, rfl⟩ | ⟨w, -, hw, hi, rfl⟩ | ⟨w, i, -, hw, hi, hexec⟩ := step_cases h
  · exact hs
  · exact ⟨hs.noKeyDown, hs.notPending, hs.lastValid, hs.atKeyWait⟩
  · obtain ⟨hwait, hpend⟩ := hs.idle_of_decode_ne hw (by simp [hi])
    exact .of_idle hwait hpend
  · by_cases hkey : ∃ x, i = .ldVxK x
    · obtain ⟨x, rfl⟩ := hkey
      exact hs.of_execLdVxK ⟨w, x, hw, hi⟩ hexec
    · have heffect := ordinaryEffect_of_exec (not_exists.1 hkey) hexec
      obtain ⟨hwait, hpend⟩ := hs.idle_of_decode_ne hw (by simpa [hi] using hkey)
      exact .of_idle (heffect.waiting.trans hwait) (heffect.keyPending.trans hpend)

end Sys2Proof.Machine
end

section
/-! PROOFS. Every host operation keeps the three invariants (R38, R320, R322, R292, R250 to R254): a cycle by its step, a
reset at its fixed values, and each other operation because it leaves the items in question alone. -/

namespace Sys2Proof.Machine

variable {s : State}

theorem State.MemCanonical.hostLoad (hs : s.MemCanonical) (image : List Byte) :
    (hostLoad image s).MemCanonical := by
  unfold Machine.hostLoad
  split
  · exact hs
  · exact storeBytes_memWf _ _ hs

theorem State.MemCanonical.tick (hs : s.MemCanonical) : (tick s).MemCanonical := by
  rw [tick_eq]
  exact hs

theorem State.MemCanonical.keyDown (hs : s.MemCanonical) (k : Nibble) : (keyDown k s).MemCanonical := by
  obtain ⟨-, hk⟩ | ⟨-, hk⟩ := keyDown_cases k s <;> rw [hk] <;> exact hs

theorem State.MemCanonical.perform (hs : s.MemCanonical) (op : HostOp) : (perform op s).MemCanonical := by
  cases op with
  | reset => rfl
  | load image => exact hs.hostLoad image
  | cycle => exact of_hostCycle hs fun _ => hs.of_step
  | tick => exact hs.tick
  | keyDown k => exact hs.keyDown k
  | keyUp | clearDraw | clearSound | observe => exact hs

theorem reset_pcBounded : State.reset.PcBounded := ⟨by decide, by decide⟩

theorem State.PcBounded.hostLoad (hs : s.PcBounded) (image : List Byte) : (hostLoad image s).PcBounded := by
  obtain ⟨m, hm⟩ := hostLoad_frame image s
  exact hm.symm ▸ hs

theorem State.PcBounded.tick (hs : s.PcBounded) : (tick s).PcBounded := by
  rw [tick_eq]
  exact hs

theorem State.PcBounded.keyDown (hs : s.PcBounded) (k : Nibble) : (keyDown k s).PcBounded := by
  obtain ⟨-, hk⟩ | ⟨-, hk⟩ := keyDown_cases k s <;> rw [hk] <;> exact hs

theorem State.PcBounded.perform (hs : s.PcBounded) (op : HostOp) : (perform op s).PcBounded := by
  cases op with
  | reset => exact reset_pcBounded
  | load image => exact hs.hostLoad image
  | cycle => exact of_hostCycle hs fun _ => hs.of_step
  | tick => exact hs.tick
  | keyDown k => exact hs.keyDown k
  | keyUp | clearDraw | clearSound | observe => exact hs

theorem State.KeyWaitInv.hostLoad (hw : s.waiting = false) (hp : s.keyPending = false) (image : List Byte) :
    (hostLoad image s).KeyWaitInv := by
  obtain ⟨m, hm⟩ := hostLoad_frame image s
  exact hm.symm ▸ .of_idle hw hp

theorem State.KeyWaitInv.tick (hs : s.KeyWaitInv) : (tick s).KeyWaitInv := by
  rw [tick_eq]
  exact ⟨hs.noKeyDown, hs.notPending, hs.lastValid, hs.atKeyWait⟩

/-- A press during a stall ends it and makes the core key-pending, with the last key valid; any other press changes
nothing but the key's flag (R250). -/
theorem State.KeyWaitInv.keyDown (hs : s.KeyWaitInv) (k : Nibble) : (keyDown k s).KeyWaitInv := by
  obtain ⟨hw, hk⟩ | ⟨hw, hk⟩ := keyDown_cases k s <;> rw [hk]
  · exact ⟨nofun, nofun, fun _ => rfl, fun _ => hs.atKeyWait (.inl hw)⟩
  · exact ⟨fun h => absurd (hw.symm.trans h) (by decide), hs.notPending, hs.lastValid, hs.atKeyWait⟩

theorem State.KeyWaitInv.keyUp (hs : s.KeyWaitInv) (k : Nibble) : (keyUp k s).KeyWaitInv := by
  refine ⟨fun hw r => ?_, hs.notPending, hs.lastValid, hs.atKeyWait⟩
  simp [Machine.keyUp, hs.noKeyDown hw r]

theorem State.KeyWaitInv.clearDraw (hs : s.KeyWaitInv) : (clearDraw s).KeyWaitInv :=
  ⟨hs.noKeyDown, hs.notPending, hs.lastValid, hs.atKeyWait⟩

theorem State.KeyWaitInv.clearSound (hs : s.KeyWaitInv) : (clearSound s).KeyWaitInv :=
  ⟨hs.noKeyDown, hs.notPending, hs.lastValid, hs.atKeyWait⟩

theorem State.KeyWaitInv.perform {op : HostOp} (hs : s.KeyWaitInv) (hop : op.Considerate s) :
    (perform op s).KeyWaitInv := by
  cases op with
  | reset => exact .of_idle rfl rfl
  | load image =>
    obtain ⟨hw, hp⟩ := hop
    exact .hostLoad hw hp image
  | cycle => exact of_hostCycle hs fun _ => hs.of_step
  | tick => exact hs.tick
  | keyDown k => exact hs.keyDown k
  | keyUp k => exact hs.keyUp k
  | clearDraw => exact hs.clearDraw
  | clearSound => exact hs.clearSound
  | observe => exact hs

/-- Settles O26: each of the three invariants is kept operation by operation. -/
theorem hostOperationsKeepTheInvariants : Obligations.HostOperationsKeepTheInvariants := by
  unfold Obligations.HostOperationsKeepTheInvariants
  intro op s
  exact ⟨fun hs => hs.perform op, fun hs => hs.perform op, fun hop hs => hs.perform hop⟩

end Sys2Proof.Machine
end

section
/-! PROOFS. The jumps, calls and returns: what `CALL` and `RET` do at each depth of the stack (R121 to R123). -/

namespace Sys2Proof.Machine

variable {s : State}

@[simp] theorem toNat_zextAddr (nnn : Addr12) : (zextAddr nnn).toNat = nnn.toNat :=
  BitVec.toNat_setWidth_of_le (by decide)

theorem execCall_of_lt (nnn : Addr12) (hsp : s.sp.val < 16) :
    execCall nnn s = .next
      { s with stack := s.stack.set s.sp.val s.pc hsp, sp := ⟨s.sp.val + 1, Nat.succ_lt_succ hsp⟩,
               pc := zextAddr nnn } := by
  simp [execCall, State.push, hsp, State.setPC]

theorem execCall_of_full (nnn : Addr12) (hsp : s.sp.val = 16) :
    execCall nnn s = .next (s.takeFault (s.pc - 2#16) .stackOverflow) := by
  simp [execCall, State.push, hsp, raise_eq]

theorem execRet_of_succ {n : Nat} (hn : n < 16) (hsp : s.sp.val = n + 1) :
    execRet s = .next { s with sp := ⟨n, Nat.lt_succ_of_lt hn⟩, pc := s.stack[n]'hn } := by
  simp [execRet, State.pop, hsp, State.setPC]

theorem execRet_of_empty (hsp : s.sp.val = 0) :
    execRet s = .next (s.takeFault (s.pc - 2#16) .stackUnderflow) := by
  simp [execRet, State.pop, hsp, raise_eq]

/-- Settles O30: the one update of `JP` sets the pc, and the zero extension keeps the address's value. -/
theorem jumpReplacesThePc : Obligations.JumpReplacesThePc := by
  unfold Obligations.JumpReplacesThePc
  intro nnn s
  exact ⟨s.setPC (zextAddr nnn), rfl, toNat_zextAddr nnn, rfl⟩

/-- Settles O32: below 16 the push writes the one cell `STACK[SP]`; at 16 the call raises before any write. -/
theorem callPushesTheReturnAddress : Obligations.CallPushesTheReturnAddress := by
  unfold Obligations.CallPushesTheReturnAddress
  intro nnn s
  refine ⟨fun hsp => ⟨_, execCall_of_lt nnn hsp, ?pushed, ?others, rfl, toNat_zextAddr nnn, rfl⟩,
    execCall_of_full nnn⟩
  case pushed => exact Vector.getElem_set_self hsp
  case others => exact fun n hn hne => Vector.getElem_set_ne hsp hn hne.symm

/-- Settles O33: at depth `n + 1` the pop reads `STACK[n]` and writes no cell; at depth 0 the return raises. -/
theorem returnPopsTheReturnAddress : Obligations.ReturnPopsTheReturnAddress := by
  unfold Obligations.ReturnPopsTheReturnAddress
  intro s
  exact ⟨fun n hn hsp => ⟨_, execRet_of_succ hn hsp, rfl, rfl, rfl⟩, execRet_of_empty⟩

end Sys2Proof.Machine
end

section
/-! PROOFS. The loads of a register (R141, R143): the one update of each is `setV`. -/

namespace Sys2Proof.Machine

variable {s : State}

@[simp] theorem exec_ldByte (x : Nibble) (nn : Byte) : exec (.ldByte x nn) s = .next (s.setV x nn) := rfl

@[simp] theorem exec_ldReg (x y : Nibble) : exec (.ldReg x y) s = .next (s.setV x (s.getV y)) := rfl

/-- The frame of `setV` in the form the register statements use: the register file put back gives the old state. -/
theorem State.setV_frame (x : Nibble) (b : Byte) : { s.setV x b with v := s.v } = s := rfl

/-- Settles O37: each load is one `setV`, whose read-back law says what every register then holds. -/
theorem loadsWriteTheirDestination : Obligations.LoadsWriteTheirDestination := by
  unfold Obligations.LoadsWriteTheirDestination
  intro x y nn s
  constructor
  · exact ⟨_, exec_ldByte x nn, s.setV_getV x nn, State.setV_frame x nn⟩
  · exact ⟨_, exec_ldReg x y, s.setV_getV x (s.getV y), State.setV_frame x (s.getV y)⟩

end Sys2Proof.Machine
end

section
/-! PROOFS. The index register and memory: `LD I, addr` is one update of I (R170). -/

namespace Sys2Proof.Machine

variable {s : State}

@[simp] theorem exec_ldI (nnn : Addr12) : exec (.ldI nnn) s = .next (s.setI (zextAddr nnn)) := rfl

/-- The frame of `setI` in the form the index statements use: the old I put back gives the old state. -/
theorem State.setI_frame (w : Word) : { s.setI w with i := s.i } = s := rfl

/-- Settles O43: the one update of `LD I` sets I, and the zero extension keeps the address's value. -/
theorem loadIndexSetsTheAddress : Obligations.LoadIndexSetsTheAddress := by
  unfold Obligations.LoadIndexSetsTheAddress
  intro nnn s
  exact ⟨_, exec_ldI nnn, toNat_zextAddr nnn, State.setI_frame (zextAddr nnn)⟩

end Sys2Proof.Machine
end

section
/-! PROOFS. The display: `CLS` installs the all-zero display and then raises the draw request (R196). -/

namespace Sys2Proof.Machine

variable {s : State}

@[simp] theorem exec_cls : exec .cls s = .next ((s.setDisp clearDisplay).setDrawReq true) := rfl

/-- The frame of a display update in the form the display statements use: the old display and the old request put back
give the old state. -/
theorem State.setDisp_setDrawReq_frame (d : Display) (b : Bool) :
    { (s.setDisp d).setDrawReq b with disp := s.disp, drawReq := s.drawReq } = s := rfl

/-- Settles O49: every pixel of the display that `CLS` installs is 0, and the request is raised without regard to the
old display. -/
theorem clearScreenClearsEveryPixel : Obligations.ClearScreenClearsEveryPixel := by
  unfold Obligations.ClearScreenClearsEveryPixel
  intro s
  have pixels_zero : ∀ r c, ((s.setDisp clearDisplay).setDrawReq true).disp.pixel r c = false := by
    intro r c
    rw [State.setDrawReq_disp, State.setDisp_disp, clearDisplay_pixel]
  exact ⟨_, exec_cls, pixels_zero, State.setDrawReq_drawReq _ true, State.setDisp_setDrawReq_frame clearDisplay true⟩

end Sys2Proof.Machine
end

section
/-! PROOFS. The delay timer: its read is one update of the register file (R225), its write one update of DT (R226). -/

namespace Sys2Proof.Machine

variable {s : State}

@[simp] theorem exec_ldVxDT (x : Nibble) : exec (.ldVxDT x) s = .next (s.setV x s.dt) := rfl

@[simp] theorem exec_ldDTVx (x : Nibble) : exec (.ldDTVx x) s = .next (s.setDT (s.getV x)) := rfl

/-- `setDT` in the form the timer statements use: the count is replaced and no other item of state is named. -/
theorem State.setDT_eq (b : Byte) : s.setDT b = { s with dt := b } := rfl

/-- Settles O54: the read is one `setV`, whose frame keeps DT, and the write is one `setDT`. -/
theorem delayTimerIsReadAndWritten : Obligations.DelayTimerIsReadAndWritten := by
  unfold Obligations.DelayTimerIsReadAndWritten
  intro x s
  constructor
  · exact ⟨_, exec_ldVxDT x, s.setV_getV x s.dt, State.setV_frame x s.dt⟩
  · rw [exec_ldDTVx, State.setDT_eq]

end Sys2Proof.Machine
end

section
/-! PROOFS. The Unknown words (R236): what the cycle returns for one, beside `step_of_unknown` for its next state. -/

namespace Sys2Proof.Machine

variable {s : State} {w : Word}

/-- An unfaulted core that fetches an Unknown word reports that word (R236). -/
theorem cycleResult_of_unknown (hf : s.fault = .noFault) (hw : s.fetch = some w) (hi : decodeWord w = none) :
    cycleResult s = .unknown w := by
  simp [cycleResult, hf, hw, hi]

/-- `setPC` in the form the system statements use: the pc is replaced and no other item of state is named. -/
theorem State.setPC_eq (a : Word) : s.setPC a = { s with pc := a } := rfl

/-- Settles O11: the step of an Unknown word is `advance` alone, and the word is what the cycle returns. -/
theorem unknownWordIsReportedNoOp : Obligations.UnknownWordIsReportedNoOp := by
  unfold Obligations.UnknownWordIsReportedNoOp
  intro s w hf hw hi
  constructor
  · rw [step_of_unknown hf hw hi, State.advance_eq, State.setPC_eq]
  · exact cycleResult_of_unknown hf hw hi

end Sys2Proof.Machine
end

section
/-! PROOFS. The faulted core and the host's part of the state under the host operations: a refused cycle is no change
(R246), a key release is one flag update (R251), and the request latches are cleared by the host alone (R252, R253). -/

namespace Sys2Proof.Machine

variable {s t : State}

/-! ### The faulted core -/

/-- A cycle of a faulted core changes no state at all (R246). -/
theorem hostCycle_of_faulted (hf : s.Faulted) : hostCycle s = s := by
  rw [hostCycle, step_of_faulted hf]

theorem executedResult_ne_refused (w : Word) (i : Instr) (s : State) : executedResult w i s ≠ .refused := by
  unfold executedResult
  split
  · nofun
  · split
    · split <;> nofun
    · nofun
    · nofun

/-- `REFUSED` is the result of a faulted core and of no other (R246, R248). -/
theorem cycleResult_eq_refused_iff : cycleResult s = .refused ↔ s.Faulted := by
  by_cases hf : s.fault = .noFault
  · have not_refused : cycleResult s ≠ .refused := by
      rw [cycleResult, if_pos hf]
      split
      · nofun
      · split
        · exact executedResult_ne_refused _ _ _
        · nofun
    exact iff_of_false not_refused (not_not.2 hf)
  · exact iff_of_true (if_neg hf) hf

/-- Of the operations only `cycle` writes `FAULT` beside `reset`, and a faulted core refuses it (R246, R256). -/
theorem perform_fault_of_faulted {op : HostOp} (hf : s.Faulted) (hop : op ≠ .reset) :
    (perform op s).fault = s.fault := by
  cases op with
  | reset => exact absurd rfl hop
  | load image =>
    obtain ⟨m, hm⟩ := hostLoad_frame image s
    rw [perform, hm]
  | cycle => rw [perform, hostCycle_of_faulted hf]
  | tick => simp [perform, tick_eq]
  | keyDown k => obtain ⟨-, hk⟩ | ⟨-, hk⟩ := keyDown_cases k s <;> simp [perform, hk]
  | keyUp | clearDraw | clearSound | observe => rfl

theorem perform_reset_fault (s : State) : (perform .reset s).fault = .noFault := rfl

/-- Settles O9: a faulted step is the identity, and a cycle is refused exactly when `FAULT` is set, which `reset`
undoes. -/
theorem faultedCoreRefusesUntilReset : Obligations.FaultedCoreRefusesUntilReset := by
  unfold Obligations.FaultedCoreRefusesUntilReset
  intro s hf
  have accepted_after_reset : cycleResult (perform .reset s) ≠ .refused := fun h =>
    cycleResult_eq_refused_iff.1 h (perform_reset_fault s)
  exact ⟨step_of_faulted hf, cycleResult_eq_refused_iff.2 hf, fun _ => perform_fault_of_faulted hf,
    perform_reset_fault s, accepted_after_reset⟩

/-! ### The key release -/

/-- The frame of `setKey` in the form the key statements use: the old flags put back give the old state. -/
theorem State.setKey_frame (k : Nibble) (b : Bool) : { s.setKey k b with keys := s.keys } = s := rfl

/-- Settles O20: a release is one `setKey`, whose read-back law says what every flag then is. -/
theorem keyUpClearsItsFlagOnly : Obligations.KeyUpClearsItsFlagOnly := by
  unfold Obligations.KeyUpClearsItsFlagOnly
  intro k s
  exact ⟨s.setKey_keyDownFlag k false, State.setKey_frame k false⟩

/-! ### The request latches -/

/-- The fetch's advance of the pc is no change of the host's part of the state (R247). -/
theorem hostStateKept_advance_left : HostStateKept s.advance t ↔ HostStateKept s t := Iff.rfl

/-- A cycle, like the instruction it may execute, keeps the host's part of the state: a faulted core, a fetch fault and
an Unknown word write nothing but the pc and `FAULT`. -/
theorem hostStateKept_of_step (h : step s = .next t) : HostStateKept s t := by
  obtain ⟨-, rfl⟩ | ⟨-, -, rfl⟩ | ⟨w, -, -, -, rfl⟩ | ⟨w, i, -, -, -, hexec⟩ := step_cases h
  · exact .refl t
  · exact (hostStateKept_takeFault _ _).2 (.refl s)
  · exact (hostStateKept_setPC _).2 (.refl s)
  · exact hostStateKept_advance_left.1 (hostStateKept_of_exec hexec)

/-- A tick that leaves `ST` nonzero leaves the sound request raised (R292, R40). -/
theorem tick_soundReq_of_st_ne (h : (tick s).st ≠ 0#8) : (tick s).soundReq = true := by
  rw [tick_eq] at h ⊢
  have hst : countDown s.st ≠ 0#8 := h
  simp [hst]

/-- Settles O21: each clear is one latch update, a step keeps the host's part of the state, and a tick ends with the
latch's trigger. -/
theorem onlyTheHostClearsRequests : Obligations.OnlyTheHostClearsRequests := by
  unfold Obligations.OnlyTheHostClearsRequests
  intro s
  have step_keeps_requests : ∀ t, step s = .next t →
      (s.drawReq = true → t.drawReq = true) ∧ (s.soundReq = true → t.soundReq = true) := by
    intro t h
    obtain ⟨-, -, -, -, hdraw, hsound⟩ := hostStateKept_of_step h
    exact ⟨hdraw, hsound⟩
  exact ⟨rfl, rfl, step_keeps_requests, tick_soundReq_of_st_ne⟩

end Sys2Proof.Machine
end

section
/-! PROOFS. A load (R322, R323): an image that fits is stored from 0x200 on; a longer one is rejected with
nothing written. -/

namespace Sys2Proof.Machine

variable {image : List Byte} {s : State}

theorem loadResult_of_fits (h : image.length ≤ 3584) : loadResult image = .ok := if_neg (Nat.not_lt.2 h)

theorem loadResult_of_tooLarge (h : 3584 < image.length) : loadResult image = .tooLarge := if_pos h

theorem hostLoad_of_fits (h : image.length ≤ 3584) : hostLoad image s = storeBytes 0x200 image s :=
  if_neg (Nat.not_lt.2 h)

theorem hostLoad_of_tooLarge (h : 3584 < image.length) : hostLoad image s = s := if_pos h

/-- The limit of 3584 bytes is what keeps every byte of the image inside memory: 0x200 + 3584 = 0x1000. -/
theorem hostLoad_readByte (hs : s.MemCanonical) (h : image.length ≤ 3584) (a : Nat) :
    (hostLoad image s).readByte a =
      if 0x200 ≤ a ∧ a < 0x200 + image.length then image[a - 0x200]?.getD 0#8 else s.readByte a := by
  have inside : 0x200 + image.length ≤ 0x1000 := by omega
  rw [hostLoad_of_fits h]
  exact storeBytes_readByte 0x200 image hs inside a

/-- With the old memory put back, a load has changed nothing. -/
theorem hostLoad_mem_restored (image : List Byte) (s : State) : { hostLoad image s with mem := s.mem } = s := by
  obtain ⟨m, hm⟩ := hostLoad_frame image s
  rw [hm]

/-- Settles O16: an image that fits is stored byte by byte from 0x200 inside memory, in memory alone; a longer one takes
the rejecting branch. -/
theorem loadWritesTheImageOrNothing : Obligations.LoadWritesTheImageOrNothing := by
  unfold Obligations.LoadWritesTheImageOrNothing
  intro image s hs
  refine ⟨fun fits => ⟨?result, hostLoad_readByte hs fits, hostLoad_mem_restored image s⟩,
    fun tooLarge => ⟨?rejected, hostLoad_of_tooLarge tooLarge⟩⟩
  case result => exact congrArg HostResult.load (loadResult_of_fits fits)
  case rejected => exact congrArg HostResult.load (loadResult_of_tooLarge tooLarge)

end Sys2Proof.Machine
end

section
/-! PROOFS. The decoder against the encoder and the opcode table (R94 to R98, R104): a word is its fields put together,
and groups 0, 8, E and F are settled each by its own function before a whole word is. -/

namespace Sys2Proof

/-! ### A word is its fields put together (R91, R92) -/

section
variable {w : Word} {op : Nibble}

theorem wordNNN_fields (hop : fieldOp w = op) : wordNNN op (fieldNNN w) = w := by
  subst hop
  ext k hk
  interval_cases k <;> simp [wordNNN, fieldOp, fieldNNN]

theorem wordXNN_fields (hop : fieldOp w = op) : wordXNN op (fieldX w) (fieldNN w) = w := by
  subst hop
  ext k hk
  interval_cases k <;> simp [wordXNN, fieldOp, fieldX, fieldNN]

theorem wordXYN_fields (hop : fieldOp w = op) : wordXYN op (fieldX w) (fieldY w) (fieldN w) = w := by
  subst hop
  ext k hk
  interval_cases k <;> simp [wordXYN, fieldOp, fieldX, fieldY, fieldN]

/-- The canonical word of groups 5 and 9 has a last nibble of 0 (R97). -/
theorem wordXYN_fields_zero (hop : fieldOp w = op) : wordXYN op (fieldX w) (fieldY w) 0#4 = w &&& 0xFFF0#16 := by
  subst hop
  ext k hk
  interval_cases k <;> simp [wordXYN, fieldOp, fieldX, fieldY]

end

theorem nibble_cases (n : Nibble) :
    n = 0x0#4 ∨ n = 0x1#4 ∨ n = 0x2#4 ∨ n = 0x3#4 ∨ n = 0x4#4 ∨ n = 0x5#4 ∨ n = 0x6#4 ∨ n = 0x7#4 ∨
    n = 0x8#4 ∨ n = 0x9#4 ∨ n = 0xA#4 ∨ n = 0xB#4 ∨ n = 0xC#4 ∨ n = 0xD#4 ∨ n = 0xE#4 ∨ n = 0xF#4 := by
  revert n
  decide

/-! ### Decoding an encoded instruction -/

/-- `CLS` and `RET` take priority over `SYS` (R96). -/
theorem sys_wellFormed_iff {nnn : Addr12} : (Instr.sys nnn).WellFormed ↔ nnn ≠ 0x0E0#12 ∧ nnn ≠ 0x0EE#12 := by
  simp [Instr.WellFormed, Instr.wellFormed]

theorem decodeGroup0_of_wellFormed {nnn : Addr12} (h : (Instr.sys nnn).WellFormed) :
    decodeGroup0 nnn = .sys nnn := by
  obtain ⟨hcls, hret⟩ := sys_wellFormed_iff.1 h
  simp [decodeGroup0, hcls, hret]

theorem decodeWord_encode {i : Instr} (hi : i.WellFormed) : decodeWord (encode i) = some i := by
  cases i with
  | sys nnn => simp [encode, decodeWord, decodeGroup0_of_wellFormed hi]
  | cls | ret => decide
  | jp | call | ldI | jpV0 => simp [encode, decodeWord]
  | seByte | sneByte | ldByte | addByte | rnd => simp [encode, decodeWord]
  | seReg | sneReg | drw => simp [encode, decodeWord]
  | ldReg | orReg | andReg | xorReg | addReg | subReg | shr | subnReg | shl =>
    simp [encode, decodeWord, decodeGroup8]
  | skp | sknp => simp [encode, decodeWord, decodeGroupE]
  | ldVxDT | ldVxK | ldDTVx | ldSTVx | addI | ldF | ldB | storeRegs | loadRegs =>
    simp [encode, decodeWord, decodeGroupF]

/-- Settles O1: the two bytes join to the encoded word, whose fields the decoder reads back. -/
theorem decodeOfEncodeIsIdentity : Obligations.DecodeOfEncodeIsIdentity := by
  unfold Obligations.DecodeOfEncodeIsIdentity
  intro i hi
  simp [encodeBytes, decode, decodeWord_encode hi]

/-! ### Encoding a decoded instruction -/

theorem decodeGroup0_encode (nnn : Addr12) :
    (decodeGroup0 nnn).WellFormed ∧ encode (decodeGroup0 nnn) = wordNNN 0x0#4 nnn := by
  unfold decodeGroup0
  split_ifs with hcls hret
  · subst hcls; decide
  · subst hret; decide
  · exact ⟨sys_wellFormed_iff.2 ⟨hcls, hret⟩, rfl⟩

theorem decodeGroup8_encode {x y n : Nibble} {i : Instr} (h : decodeGroup8 x y n = some i) :
    i.WellFormed ∧ encode i = wordXYN 0x8#4 x y n := by
  unfold decodeGroup8 at h
  split at h <;> cases h <;> exact ⟨rfl, rfl⟩

theorem decodeGroupE_encode {x : Nibble} {nn : Byte} {i : Instr} (h : decodeGroupE x nn = some i) :
    i.WellFormed ∧ encode i = wordXNN 0xE#4 x nn := by
  unfold decodeGroupE at h
  split at h <;> cases h <;> exact ⟨rfl, rfl⟩

theorem decodeGroupF_encode {x : Nibble} {nn : Byte} {i : Instr} (h : decodeGroupF x nn = some i) :
    i.WellFormed ∧ encode i = wordXNN 0xF#4 x nn := by
  unfold decodeGroupF at h
  split at h <;> cases h <;> exact ⟨rfl, rfl⟩

theorem encode_of_decodeWord {w : Word} {i : Instr} (h : decodeWord w = some i) :
    i.WellFormed ∧ encode i = if fieldOp w = 0x5#4 ∨ fieldOp w = 0x9#4 then w &&& 0xFFF0#16 else w := by
  unfold decodeWord at h
  split at h
  -- Case `h_(g + 1)` is group g.
  case h_1 hw => cases h; simpa [hw, wordNNN_fields hw] using decodeGroup0_encode (fieldNNN w)
  case h_9 hw => simpa [hw, wordXYN_fields hw] using decodeGroup8_encode h
  case h_15 hw => simpa [hw, wordXNN_fields hw] using decodeGroupE_encode h
  case h_16 hw => simpa [hw, wordXNN_fields hw] using decodeGroupF_encode h
  case h_6 hw | h_10 hw => cases h; exact ⟨rfl, by simp [hw, encode, wordXYN_fields_zero hw]⟩
  case h_2 hw | h_3 hw | h_11 hw | h_12 hw => cases h; exact ⟨rfl, by simp [hw, encode, wordNNN_fields hw]⟩
  case h_4 hw | h_5 hw | h_7 hw | h_8 hw | h_13 hw =>
    cases h; exact ⟨rfl, by simp [hw, encode, wordXNN_fields hw]⟩
  case h_14 hw => cases h; exact ⟨rfl, by simp [hw, encode, wordXYN_fields hw]⟩
  case h_17 => cases h

/-- Settles O4: the word is its fields put together, whichever format its group reads. -/
theorem encodeOfDecodeIsCanonicalWord : Obligations.EncodeOfDecodeIsCanonicalWord := by
  unfold Obligations.EncodeOfDecodeIsCanonicalWord
  intro w i h
  exact encode_of_decodeWord h

/-! ### The Unknown words (R98) -/

theorem decodeGroup8_eq_none (x y n : Nibble) :
    decodeGroup8 x y n = none ↔ n ∈ [0x8#4, 0x9#4, 0xA#4, 0xB#4, 0xC#4, 0xD#4, 0xF#4] := by
  obtain rfl | rfl | rfl | rfl | rfl | rfl | rfl | rfl | rfl | rfl | rfl | rfl | rfl | rfl | rfl | rfl :=
    nibble_cases n <;> simp [decodeGroup8]

theorem decodeGroupE_eq_none (x : Nibble) (nn : Byte) :
    decodeGroupE x nn = none ↔ nn ∉ [0x9E#8, 0xA1#8] := by
  unfold decodeGroupE
  split <;> simp_all

theorem decodeGroupF_eq_none (x : Nibble) (nn : Byte) :
    decodeGroupF x nn = none ↔
      nn ∉ [0x07#8, 0x0A#8, 0x15#8, 0x18#8, 0x1E#8, 0x29#8, 0x33#8, 0x55#8, 0x65#8] := by
  unfold decodeGroupF
  split <;> simp_all

theorem decodeWord_of_group8 {w : Word} (hw : fieldOp w = 0x8#4) :
    decodeWord w = decodeGroup8 (fieldX w) (fieldY w) (fieldN w) := by
  simp [decodeWord, hw]

theorem decodeWord_of_groupE {w : Word} (hw : fieldOp w = 0xE#4) :
    decodeWord w = decodeGroupE (fieldX w) (fieldNN w) := by
  simp [decodeWord, hw]

theorem decodeWord_of_groupF {w : Word} (hw : fieldOp w = 0xF#4) :
    decodeWord w = decodeGroupF (fieldX w) (fieldNN w) := by
  simp [decodeWord, hw]

theorem decodeWord_ne_none {w : Word} (h8 : fieldOp w ≠ 0x8#4) (hE : fieldOp w ≠ 0xE#4) (hF : fieldOp w ≠ 0xF#4) :
    decodeWord w ≠ none := by
  obtain hw | hw | hw | hw | hw | hw | hw | hw | hw | hw | hw | hw | hw | hw | hw | hw := nibble_cases (fieldOp w) <;>
    simp_all [decodeWord]

/-- Settles O3: of the sixteen groups only 8, E and F reject a word, each by its own trailing nibbles. -/
theorem unknownWordsAreThoseOfTheSpec : Obligations.UnknownWordsAreThoseOfTheSpec := by
  unfold Obligations.UnknownWordsAreThoseOfTheSpec
  intro w
  by_cases h8 : fieldOp w = 0x8#4
  · simp [decodeWord_of_group8 h8, decodeGroup8_eq_none, h8]
  by_cases hE : fieldOp w = 0xE#4
  · simp [decodeWord_of_groupE hE, decodeGroupE_eq_none, hE]
  by_cases hF : fieldOp w = 0xF#4
  · simp [decodeWord_of_groupF hF, decodeGroupF_eq_none, hF]
  · simp [decodeWord_ne_none h8 hE hF, h8, hE, hF]

/-! ### The opcode table (R95) -/

section
variable {w v : Word}

theorem fieldOp_of_and_F000 (h : w &&& 0xF000#16 = v) : fieldOp w = fieldOp v := by
  subst h
  ext k hk
  interval_cases k <;> simp [fieldOp]

theorem fields_of_and_F00F (h : w &&& 0xF00F#16 = v) : fieldOp w = fieldOp v ∧ fieldN w = fieldN v := by
  subst h
  constructor <;> ext k hk <;> interval_cases k <;> simp [fieldOp, fieldN]

theorem fields_of_and_F0FF (h : w &&& 0xF0FF#16 = v) : fieldOp w = fieldOp v ∧ fieldNN w = fieldNN v := by
  subst h
  constructor <;> ext k hk <;> interval_cases k <;> simp [fieldOp, fieldNN]

theorem sys_of_and_F000 (h : w &&& 0xF000#16 = 0x0000#16) (hcls : w ≠ 0x00E0#16) (hret : w ≠ 0x00EE#16) :
    decodeWord w = some (.sys (fieldNNN w)) := by
  have hop : fieldOp w = 0x0#4 := fieldOp_of_and_F000 h
  have hw : w = wordNNN 0x0#4 (fieldNNN w) := (wordNNN_fields hop).symm
  have hwf : (Instr.sys (fieldNNN w)).WellFormed :=
    sys_wellFormed_iff.2 ⟨fun e => hcls (by rw [hw, e]; rfl), fun e => hret (by rw [hw, e]; rfl)⟩
  simp [decodeWord, hop, decodeGroup0_of_wellFormed hwf]

end

/-- The decoder gives `w` the meaning of row `r` if `w` selects `r`. For the words of `CLS` and `RET`, which select the
row of `SYS` too, the order of the table decides (R96), so nothing is said of them. -/
def OpcodeRow.AgreesOn (r : OpcodeRow) (w : Word) : Prop :=
  w ≠ 0x00E0#16 → w ≠ 0x00EE#16 → w &&& r.mask = r.value → decodeWord w = some (r.build w)

theorem opcodeRowsLow_agree (w : Word) : ∀ r ∈ opcodeRowsLow, r.AgreesOn w := by
  simp only [opcodeRowsLow, List.forall_mem_cons, OpcodeRow.AgreesOn]
  refine ⟨fun hcls _ h => ?cls, fun _ hret h => ?ret, fun hcls hret h => sys_of_and_F000 h hcls hret,
    ?_, ?_, ?_, ?_, ?_, ?_, ?_, nofun⟩
  case cls => exact absurd (BitVec.and_allOnes.symm.trans h) hcls
  case ret => exact absurd (BitVec.and_allOnes.symm.trans h) hret
  all_goals
    intro _ _ h
    rw [decodeWord, fieldOp_of_and_F000 h]
    rfl

theorem opcodeRows8_agree (w : Word) : ∀ r ∈ opcodeRows8, r.AgreesOn w := by
  simp only [opcodeRows8, List.forall_mem_cons, OpcodeRow.AgreesOn]
  refine ⟨?_, ?_, ?_, ?_, ?_, ?_, ?_, ?_, ?_, nofun⟩
  all_goals
    intro _ _ h
    obtain ⟨hop, hn⟩ := fields_of_and_F00F h
    rw [decodeWord_of_group8 hop, hn]
    rfl

theorem opcodeRowsHigh_agree (w : Word) : ∀ r ∈ opcodeRowsHigh, r.AgreesOn w := by
  simp only [opcodeRowsHigh, List.forall_mem_cons, OpcodeRow.AgreesOn]
  refine ⟨?_, ?_, ?_, ?_, ?_, fun _ _ h => ?skp, fun _ _ h => ?sknp, nofun⟩
  case skp | sknp =>
    obtain ⟨hop, hnn⟩ := fields_of_and_F0FF h
    rw [decodeWord_of_groupE hop, hnn]
    rfl
  all_goals
    intro _ _ h
    rw [decodeWord, fieldOp_of_and_F000 h]
    rfl

theorem opcodeRowsF_agree (w : Word) : ∀ r ∈ opcodeRowsF, r.AgreesOn w := by
  simp only [opcodeRowsF, List.forall_mem_cons, OpcodeRow.AgreesOn]
  refine ⟨?_, ?_, ?_, ?_, ?_, ?_, ?_, ?_, ?_, nofun⟩
  all_goals
    intro _ _ h
    obtain ⟨hop, hnn⟩ := fields_of_and_F0FF h
    rw [decodeWord_of_groupF hop, hnn]
    rfl

theorem opcodeTable_agrees {r : OpcodeRow} (hr : r ∈ opcodeTable) (w : Word) : r.AgreesOn w := by
  simp only [opcodeTable, List.mem_append] at hr
  obtain ((hr | hr) | hr) | hr := hr
  · exact opcodeRowsLow_agree w r hr
  · exact opcodeRows8_agree w r hr
  · exact opcodeRowsHigh_agree w r hr
  · exact opcodeRowsF_agree w r hr

open Laws.EncodingRow in
theorem encodingRow : ∀ i : Instr, Statement i
  | .sys _ => sys _ | .cls => cls | .ret => ret | .jp _ => jp _ | .call _ => call _ | .seByte _ _ => seByte _ _
  | .sneByte _ _ => sneByte _ _ | .seReg _ _ => seReg _ _ | .ldByte _ _ => ldByte _ _ | .addByte _ _ => addByte _ _
  | .ldReg _ _ => ldReg _ _ | .orReg _ _ => orReg _ _ | .andReg _ _ => andReg _ _ | .xorReg _ _ => xorReg _ _
  | .addReg _ _ => addReg _ _ | .subReg _ _ => subReg _ _ | .shr _ _ => shr _ _ | .subnReg _ _ => subnReg _ _
  | .shl _ _ => shl _ _ | .sneReg _ _ => sneReg _ _ | .ldI _ => ldI _ | .jpV0 _ => jpV0 _ | .rnd _ _ => rnd _ _
  | .drw _ _ _ => drw _ _ _ | .skp _ => skp _ | .sknp _ => sknp _ | .ldVxDT _ => ldVxDT _ | .ldVxK _ => ldVxK _
  | .ldDTVx _ => ldDTVx _ | .ldSTVx _ => ldSTVx _ | .addI _ => addI _ | .ldF _ => ldF _ | .ldB _ => ldB _
  | .storeRegs _ => storeRegs _ | .loadRegs _ => loadRegs _

/-- A word that decodes selects a row: in groups 5 and 9 by its first nibble alone, elsewhere because it is the word
that the encoder gives. -/
theorem exists_selected_row {w : Word} {i : Instr} (h : decodeWord w = some i) :
    ∃ r ∈ opcodeTable, r.selects w = true := by
  obtain ⟨-, henc⟩ := encode_of_decodeWord h
  split_ifs at henc with hop
  · have hmask {op : Nibble} (hop : fieldOp w = op) : w &&& 0xF000#16 = wordXYN op 0#4 0#4 0#4 := by
      rw [← wordXYN_fields hop, mask_xyn]
    obtain h5 | h9 := hop
    · exact ⟨_, List.getElem_mem (n := 7) (by decide), beq_iff_eq.2 (hmask h5)⟩
    · exact ⟨_, List.getElem_mem (n := 19) (by decide), beq_iff_eq.2 (hmask h9)⟩
  · obtain ⟨r, hr, -, hsel⟩ := encodingRow i
    exact ⟨r, hr, henc ▸ hsel⟩

/-- Settles O2: every row that the table finds agrees with the decoder, and a word for which it finds none does not
decode; the two words that select two rows are decided by the order of the table. -/
theorem decoderAgreesWithOpcodeTable : Obligations.DecoderAgreesWithOpcodeTable := by
  unfold Obligations.DecoderAgreesWithOpcodeTable
  intro w
  by_cases hcls : w = 0x00E0#16
  · subst hcls; decide
  by_cases hret : w = 0x00EE#16
  · subst hret; decide
  unfold decodeByTable
  cases hfind : opcodeTable.find? (·.selects w) with
  | none =>
    rw [List.find?_eq_none] at hfind
    refine Option.eq_none_iff_forall_ne_some.2 fun i hi => ?_
    obtain ⟨r, hr, hsel⟩ := exists_selected_row hi
    exact hfind r hr hsel
  | some r =>
    have hsel : w &&& r.mask = r.value := by simpa [OpcodeRow.selects] using List.find?_some hfind
    exact opcodeTable_agrees (List.mem_of_find?_eq_some hfind) w hcls hret hsel

/-- Settles O5: closed words, decoded by evaluation. -/
theorem exampleWordsDecodeAsStated : Obligations.ExampleWordsDecodeAsStated := by
  unfold Obligations.ExampleWordsDecodeAsStated
  decide

end Sys2Proof
end

section
/-! PROOFS. The three invariants: every step keeps each (log entry 8, R25, R38), and the reset state meets them
(R45). -/

namespace Sys2Proof.Machine

/-- Settles O22: the memory is written by stores alone, and each keeps the canonical form. -/
theorem stepKeepsMemoryCanonical : Obligations.StepKeepsMemoryCanonical := by
  unfold Obligations.StepKeepsMemoryCanonical
  intro s t hs h
  exact hs.of_step h

/-- Settles O23: the highest jump target is 0x10FE, and a pushed return address is an advanced pc. -/
theorem stepKeepsPcBounded : Obligations.StepKeepsPcBounded := by
  unfold Obligations.StepKeepsPcBounded
  intro s t hs h
  exact hs.of_step h

/-- Settles O24: a stalled or key-pending core executes its `LD Vx, K`, and no other instruction touches the key
wait. -/
theorem stepKeepsKeyWaitState : Obligations.StepKeepsKeyWaitState := by
  unfold Obligations.StepKeepsKeyWaitState
  intro s t hs h
  exact hs.of_step h

/-- Settles O25: no cell is listed, the pc and the stack cells are fixed values, and the core is neither stalled nor
key-pending. -/
theorem resetMeetsTheInvariants : Obligations.ResetMeetsTheInvariants := by
  unfold Obligations.ResetMeetsTheInvariants
  exact ⟨reset_memCanonical, reset_pcBounded, .of_idle rfl rfl⟩

end Sys2Proof.Machine
end

section
/-! PROOFS. The range-checked instructions (R63) inside and outside memory, and the table of the fatal faults (R281):
where it names a cause, the instruction takes that fault and does nothing else; where it names none, it has its own
effect. -/

namespace Sys2Proof.Machine

variable {s t : State} {i : Instr}

/-! ### The range check (R63) -/

theorem withRange_of_inside {addr count : Nat} (h : count = 0 ∨ addr + count ≤ 0x1000) :
    withRange addr count s t = .next t := by
  rw [withRange_eq, if_neg (by omega)]

theorem withRange_of_outside {addr count : Nat} (h0 : 0 < count) (h : 0x1000 < addr + count) :
    withRange addr count s t = .next (s.takeFault (s.pc - 2#16) .memOutOfRange) := by
  rw [withRange_eq, if_pos (by omega)]

/-- The state that a `DRW` leaves when it does not fault (R197). -/
def State.drawn (s : State) (x y n : Nibble) : State :=
  ((s.setDisp (s.blit x y n).disp).setV regVF (flagByte (s.blit x y n).hit)).setDrawReq true

theorem exec_drw_of_inside {x y n : Nibble} (h : n.toNat = 0 ∨ s.i.toNat + n.toNat ≤ 0x1000) :
    exec (.drw x y n) s = .next (s.drawn x y n) :=
  withRange_of_inside h

theorem exec_drw_of_outside {x y n : Nibble} (h0 : 0 < n.toNat) (h : 0x1000 < s.i.toNat + n.toNat) :
    exec (.drw x y n) s = .next (s.takeFault (s.pc - 2#16) .memOutOfRange) :=
  withRange_of_outside h0 h

theorem exec_ldB_of_inside {x : Nibble} (h : s.i.toNat + 2 ≤ 0xFFF) :
    exec (.ldB x) s = .next (s.storeDigits (s.getV x)) :=
  withRange_of_inside (.inr (Nat.succ_le_succ h))

theorem exec_ldB_of_outside {x : Nibble} (h : 0xFFF < s.i.toNat + 2) :
    exec (.ldB x) s = .next (s.takeFault (s.pc - 2#16) .memOutOfRange) :=
  withRange_of_outside (by decide) (Nat.succ_lt_succ h)

theorem exec_storeRegs_of_inside {x : Nibble} (h : s.i.toNat + x.toNat ≤ 0xFFF) :
    exec (.storeRegs x) s = .next ((storeBlock (s.dataAddr 0) (x.toNat + 1) s).setI (s.blockIndex x)) :=
  withRange_of_inside (.inr (Nat.succ_le_succ h))

theorem exec_storeRegs_of_outside {x : Nibble} (h : 0xFFF < s.i.toNat + x.toNat) :
    exec (.storeRegs x) s = .next (s.takeFault (s.pc - 2#16) .memOutOfRange) :=
  withRange_of_outside (Nat.succ_pos _) (Nat.succ_lt_succ h)

theorem exec_loadRegs_of_inside {x : Nibble} (h : s.i.toNat + x.toNat ≤ 0xFFF) :
    exec (.loadRegs x) s = .next ((loadBlock (s.dataAddr 0) (x.toNat + 1) s).setI (s.blockIndex x)) :=
  withRange_of_inside (.inr (Nat.succ_le_succ h))

theorem exec_loadRegs_of_outside {x : Nibble} (h : 0xFFF < s.i.toNat + x.toNat) :
    exec (.loadRegs x) s = .next (s.takeFault (s.pc - 2#16) .memOutOfRange) :=
  withRange_of_outside (Nat.succ_pos _) (Nat.succ_lt_succ h)

/-! ### The table of the fatal faults (R281) -/

/-- A row of the table is all that the instruction does (R284, R285). -/
theorem exec_of_faultRow {f : FaultCode} {info : Nat} (h : faultRow i s = some (f, info)) :
    exec i s = .next (s.takeFault (s.pc - 2#16) f) ∧ f ≠ .noFault ∧ info = faultInfo s f ∧
      isReported i = false := by
  cases i with
  | call nnn =>
    obtain ⟨hfull, ⟨⟩⟩ := Option.ite_none_right_eq_some.1 h
    exact ⟨execCall_of_full nnn hfull, nofun, rfl, rfl⟩
  | ret =>
    obtain ⟨hempty, ⟨⟩⟩ := Option.ite_none_right_eq_some.1 h
    exact ⟨execRet_of_empty hempty, nofun, rfl, rfl⟩
  | drw x y n =>
    obtain ⟨⟨hn, hout⟩, ⟨⟩⟩ := Option.ite_none_right_eq_some.1 h
    exact ⟨exec_drw_of_outside hn (by omega), nofun, rfl, rfl⟩
  | ldB x =>
    obtain ⟨hout, ⟨⟩⟩ := Option.ite_none_right_eq_some.1 h
    exact ⟨exec_ldB_of_outside hout, nofun, rfl, rfl⟩
  | storeRegs x =>
    obtain ⟨hout, ⟨⟩⟩ := Option.ite_none_right_eq_some.1 h
    exact ⟨exec_storeRegs_of_outside hout, nofun, rfl, rfl⟩
  | loadRegs x =>
    obtain ⟨hout, ⟨⟩⟩ := Option.ite_none_right_eq_some.1 h
    exact ⟨exec_loadRegs_of_outside hout, nofun, rfl, rfl⟩
  | sys | cls | jp | jpV0 | seByte | sneByte | seReg | sneReg | skp | sknp | ldByte | addByte | ldReg | orReg
  | andReg | xorReg | addReg | subReg | shr | subnReg | shl | rnd | ldVxDT | ldVxK | ldDTVx | ldSTVx | ldI | addI
  | ldF => cases h

/-! ### Where the table names no cause -/

theorem not_of_ite_none {α : Type} {p : Prop} [Decidable p] {a : α} (h : (if p then some a else none) = none) : ¬p :=
  fun hp => by simp [hp] at h

theorem exec_drw_of_noFaultRow {x y n : Nibble} (h : faultRow (.drw x y n) s = none) :
    exec (.drw x y n) s = .next (s.drawn x y n) := by
  have hin := not_of_ite_none h
  exact exec_drw_of_inside (by omega)

theorem exec_ldB_of_noFaultRow {x : Nibble} (h : faultRow (.ldB x) s = none) :
    exec (.ldB x) s = .next (s.storeDigits (s.getV x)) := by
  exact exec_ldB_of_inside (Nat.le_of_not_lt (not_of_ite_none h))

theorem exec_storeRegs_of_noFaultRow {x : Nibble} (h : faultRow (.storeRegs x) s = none) :
    exec (.storeRegs x) s = .next ((storeBlock (s.dataAddr 0) (x.toNat + 1) s).setI (s.blockIndex x)) := by
  exact exec_storeRegs_of_inside (Nat.le_of_not_lt (not_of_ite_none h))

theorem exec_loadRegs_of_noFaultRow {x : Nibble} (h : faultRow (.loadRegs x) s = none) :
    exec (.loadRegs x) s = .next ((loadBlock (s.dataAddr 0) (x.toNat + 1) s).setI (s.blockIndex x)) := by
  exact exec_loadRegs_of_inside (Nat.le_of_not_lt (not_of_ite_none h))

theorem exec_call_of_noFaultRow {nnn : Addr12} (h : faultRow (.call nnn) s = none) :
    ∃ hsp : s.sp.val < 16, exec (.call nnn) s = .next
      { s with stack := s.stack.set s.sp.val s.pc hsp, sp := ⟨s.sp.val + 1, Nat.succ_lt_succ hsp⟩,
               pc := zextAddr nnn } := by
  have hdepth := not_of_ite_none h
  have hsp : s.sp.val < 16 := by omega
  exact ⟨hsp, execCall_of_lt nnn hsp⟩

theorem exec_ret_of_noFaultRow (h : faultRow .ret s = none) :
    ∃ (n : Nat) (hn : n < 16), exec .ret s = .next
      { s with sp := ⟨n, Nat.lt_succ_of_lt hn⟩, pc := s.stack[n]'hn } := by
  have hdepth := not_of_ite_none h
  have hn : s.sp.val - 1 < 16 := by omega
  exact ⟨s.sp.val - 1, hn, execRet_of_succ hn (by omega)⟩

end Sys2Proof.Machine
end

section
/-! PROOFS. Which instructions write each item of state outside the register file (R24, R26 to R31, R34 to R37, R42,
R67, R281): a fault writes the pc and `FAULT` alone, and every other effect is a composition of the updates of
Machine/Ops.lean. -/

namespace Sys2Proof.Machine

variable {s t : State} {i : Instr}

/-- What `i`, gone from `s` to `t`, leaves of each item outside the register file unless it is named for it;
`faultKept` adds that `FAULT` is written only where the table of R281 names a cause. -/
structure ItemsWritten (i : Instr) (s t : State) : Prop where
  stack : (∀ n, i ≠ .call n) → t.stack = s.stack
  sp : (∀ n, i ≠ .call n) → i ≠ .ret → t.sp = s.sp
  display : i ≠ .cls → (∀ x y n, i ≠ .drw x y n) → t.disp = s.disp ∧ t.drawReq = s.drawReq
  mem : (∀ x, i ≠ .ldB x ∧ i ≠ .storeRegs x) → t.mem = s.mem
  index : (∀ n, i ≠ .ldI n) → (∀ x, i ≠ .addI x ∧ i ≠ .ldF x) →
    s.config.indexIncrement = false ∨ (∀ x, i ≠ .storeRegs x ∧ i ≠ .loadRegs x) → t.i = s.i
  delay : (∀ x, i ≠ .ldDTVx x) → t.dt = s.dt
  sound : (∀ x, i ≠ .ldSTVx x) → t.st = s.st ∧ t.soundReq = s.soundReq
  keyWait : (∀ x, i ≠ .ldVxK x) → t.waiting = s.waiting ∧ t.keyPending = s.keyPending
  pc : (∀ n, i ≠ .jp n ∧ i ≠ .jpV0 n ∧ i ≠ .call n) → i ≠ .ret → (∀ x nn, i ≠ .seByte x nn ∧ i ≠ .sneByte x nn) →
    (∀ x y, i ≠ .seReg x y ∧ i ≠ .sneReg x y) → (∀ x, i ≠ .skp x ∧ i ≠ .sknp x ∧ i ≠ .ldVxK x) →
    faultRow i s = none → t.pc = s.pc
  draws : (∀ x nn, i ≠ .rnd x nn) → t.drawCount = s.drawCount
  faultKept : faultRow i s = none → t.fault = s.fault

theorem ItemsWritten.of_takeFault {a : Word} {f : FaultCode} (h : faultRow i s ≠ none) :
    ItemsWritten i s (s.takeFault a f) := by
  constructor <;> simp [h]

theorem ItemsWritten.of_execLdVxK {x : Nibble} (h : execLdVxK x s = .next t) : ItemsWritten (.ldVxK x) s t := by
  obtain ⟨-, rfl⟩ | ⟨-, -, rfl⟩ | ⟨-, -, k, -, rfl⟩ | ⟨-, -, -, rfl⟩ := execLdVxK_cases h <;>
    constructor <;> simp [State.stall_eq]

theorem blockIndex_of_not_increment (x : Nibble) (h : s.config.indexIncrement = false) : s.blockIndex x = s.i := by
  simp [State.blockIndex, h]

/-- Where the table names no cause, an instruction has its own effect. -/
theorem itemsWritten_of_noFaultRow (hrow : faultRow i s = none) (h : exec i s = .next t) : ItemsWritten i s t := by
  cases i with
  | ldVxK x => exact .of_execLdVxK h
  | call nnn =>
    obtain ⟨hsp, hexec⟩ := exec_call_of_noFaultRow hrow
    cases h.symm.trans hexec
    constructor <;> simp
  | ret =>
    obtain ⟨n, hn, hexec⟩ := exec_ret_of_noFaultRow hrow
    cases h.symm.trans hexec
    constructor <;> simp
  | drw x y n =>
    cases h.symm.trans (exec_drw_of_noFaultRow hrow)
    constructor <;> simp [State.drawn]
  | ldB x =>
    cases h.symm.trans (exec_ldB_of_noFaultRow hrow)
    constructor <;> simp [State.storeDigits]
  | storeRegs x =>
    cases h.symm.trans (exec_storeRegs_of_noFaultRow hrow)
    obtain ⟨m, hm⟩ := storeBlock_frame (s.dataAddr 0) (x.toNat + 1) s
    rw [hm]
    constructor <;> simp +contextual [blockIndex_of_not_increment]
  | loadRegs x =>
    cases h.symm.trans (exec_loadRegs_of_noFaultRow hrow)
    obtain ⟨v, hv⟩ := loadBlock_frame (s.dataAddr 0) (x.toNat + 1) s
    rw [hv]
    constructor <;> simp +contextual [blockIndex_of_not_increment]
  | ldSTVx x =>
    cases h
    rw [State.requestSound_eq]
    constructor <;> simp
  | seByte | sneByte | seReg | sneReg | skp | sknp =>
    cases h
    rw [State.skipIf_eq]
    constructor <;> simp
  | addReg | subReg | shr | subnReg | shl =>
    cases h
    unfold State.setResultFlag
    constructor <;> simp
  | sys | cls | jp | jpV0 | ldByte | addByte | ldReg | orReg | andReg | xorReg | rnd | ldVxDT | ldDTVx | ldI | addI
  | ldF =>
    cases h
    constructor <;> simp

theorem itemsWritten_of_exec (h : exec i s = .next t) : ItemsWritten i s t := by
  cases hrow : faultRow i s with
  | none => exact itemsWritten_of_noFaultRow hrow h
  | some row =>
    obtain ⟨hfault, -, -, -⟩ := exec_of_faultRow hrow
    cases h.symm.trans hfault
    exact .of_takeFault (by simp [hrow])

theorem State.readByte_congr (hm : t.mem = s.mem) (hc : t.config = s.config) (a : Nat) :
    t.readByte a = s.readByte a := by
  simp only [State.readByte, hm, hc]

/-- Beyond the fetch the table of R281 has rows for these six instructions alone. -/
theorem faultRow_eq_none (hcall : ∀ n, i ≠ .call n) (hret : i ≠ .ret) (hdrw : ∀ x y n, i ≠ .drw x y n)
    (hmem : ∀ x, i ≠ .ldB x ∧ i ≠ .storeRegs x ∧ i ≠ .loadRegs x) : faultRow i s = none := by
  cases i <;> simp_all [faultRow]

/-- Settles O28: item by item, with the key flags and the last-key slot as every instruction leaves them. -/
theorem onlyNamedInstructionsWriteEachItem : Obligations.OnlyNamedInstructionsWriteEachItem := by
  unfold Obligations.OnlyNamedInstructionsWriteEachItem
  intro i s t h
  have hw := itemsWritten_of_exec h
  obtain ⟨hkeys, hlast, hvalid, hconfig, -, -⟩ := hostStateKept_of_exec h
  have memory : (∀ x, i ≠ .ldB x ∧ i ≠ .storeRegs x) → t.mem = s.mem ∧ ∀ a, t.readByte a = s.readByte a :=
    fun hi => ⟨hw.mem hi, State.readByte_congr (hw.mem hi) hconfig⟩
  exact ⟨hw.stack, hw.sp, hw.display, memory, hw.index, hw.delay, hw.sound, hw.keyWait,
    fun hcall hret hdrw hmem => hw.faultKept (faultRow_eq_none hcall hret hdrw hmem), hw.pc,
    ⟨hkeys, hlast, hvalid⟩, hw.draws⟩

end Sys2Proof.Machine
end

section
/-! PROOFS. A cycle: what the fetch reads (R64, R65, R75), what a step of a decoded instruction is (R247), what the
cycle returns (R248, R281), and the end of a safe run (R284). -/

namespace Sys2Proof.Machine

variable {s t : State} {w : Word} {i : Instr}

/-! ### The fetch (R64, R65, R75) -/

theorem fetch_of_le (h : s.pc.toNat ≤ 0xFFE) :
    s.fetch = some (joinBytes (s.readByte s.pc.toNat) (s.readByte (s.pc.toNat + 1))) := if_pos h

theorem fetch_of_lt (h : 0xFFE < s.pc.toNat) : s.fetch = none := if_neg (Nat.not_le.2 h)

theorem toNat_joinBytes (hi lo : Byte) : (joinBytes hi lo).toNat = 256 * hi.toNat + lo.toNat := by
  have hhi := hi.isLt
  have fits : hi.toNat <<< 8 % 2 ^ 16 = hi.toNat <<< 8 := Nat.mod_eq_of_lt (by rw [Nat.shiftLeft_eq]; omega)
  simp only [joinBytes, BitVec.toNat_or, BitVec.toNat_shiftLeft, BitVec.toNat_setWidth_of_le (by decide : 8 ≤ 16), fits]
  rw [← Nat.shiftLeft_add_eq_or_of_lt lo.isLt, Nat.shiftLeft_eq, Nat.mul_comm]

/-- Settles O6: up to 0xFFE the word is its two bytes joined, and above nothing is fetched. -/
theorem fetchReadsBigEndianWord : Obligations.FetchReadsBigEndianWord := by
  unfold Obligations.FetchReadsBigEndianWord
  intro s
  exact ⟨fun h => ⟨_, fetch_of_le h, toNat_joinBytes _ _⟩, fetch_of_lt⟩

/-- Two bytes stored at the pc and after it are the next word fetched (R75). -/
theorem fetch_of_stored (hs : s.MemCanonical) (h : s.pc.toNat ≤ 0xFFE) (hi lo : Byte) :
    ((s.writeByte s.pc.toNat hi).writeByte (s.pc.toNat + 1) lo).fetch = some (joinBytes hi lo) := by
  have hs' : (s.writeByte s.pc.toNat hi).MemCanonical := State.writeByte_memWf _ _ hs
  have read (a : Nat) := State.readByte_writeByte lo hs' (a := s.pc.toNat + 1) (by omega) a
  have read' (a : Nat) := State.readByte_writeByte hi hs (a := s.pc.toNat) (by omega) a
  rw [fetch_of_le (s := (s.writeByte s.pc.toNat hi).writeByte (s.pc.toNat + 1) lo) h]
  simp [read, read']

theorem withFetchWord_fetch (hs : s.MemCanonical) (nbits w : Nat) :
    (s.withFetchWord nbits w).fetch = some (BitVec.ofNat 16 (w % 2 ^ nbits)) := by
  have hpc : (if s.pc.toNat ≤ 0xFFE then s.pc else 0x200#16).toNat ≤ 0xFFE := by
    split
    · assumption
    · decide
  have placed := fetch_of_stored
    (s := { s with pc := if s.pc.toNat ≤ 0xFFE then s.pc else 0x200#16, fault := .noFault }) hs hpc
    (highByte (BitVec.ofNat 16 (w % 2 ^ nbits))) (lowByte (BitVec.ofNat 16 (w % 2 ^ nbits)))
  rwa [joinBytes_bytes] at placed

/-- Settles O7: the placing of a word is a store of its two bytes at a pc inside memory. -/
theorem storedWordIsFetchedNext : Obligations.StoredWordIsFetchedNext := by
  unfold Obligations.StoredWordIsFetchedNext
  intro s nbits w hs
  exact ⟨fetch_of_stored hs, withFetchWord_fetch hs nbits w, rfl⟩

/-! ### The step (R247) -/

/-- Settles O8: the fetched word is the two bytes joined, and what decodes is well-formed. -/
theorem stepRunsTheDecodedInstruction : Obligations.StepRunsTheDecodedInstruction := by
  unfold Obligations.StepRunsTheDecodedInstruction
  intro s i hf hpc hi
  exact ⟨(encode_of_decodeWord hi).1, step_of_instr hf (fetch_of_le hpc) hi⟩

/-- Settles O10: above 0xFFE the fetch gives nothing, so the fault is taken at the pc itself. -/
theorem fetchAboveMemoryFaults : Obligations.FetchAboveMemoryFaults := by
  unfold Obligations.FetchAboveMemoryFaults
  intro s hf hpc
  have hw := fetch_of_lt hpc
  exact ⟨step_of_fetchFault hf hw, by simp [cycleResult, hf, hw]⟩

theorem exec_answers (i : Instr) (s : State) : ∃ t, exec i s = .next t := by
  cases hrow : faultRow i s with
  | some row => exact ⟨_, (exec_of_faultRow hrow).1⟩
  | none =>
    cases i with
    | call nnn => obtain ⟨_, h⟩ := exec_call_of_noFaultRow hrow; exact ⟨_, h⟩
    | ret => obtain ⟨_, _, h⟩ := exec_ret_of_noFaultRow hrow; exact ⟨_, h⟩
    | drw => exact ⟨_, exec_drw_of_noFaultRow hrow⟩
    | ldB => exact ⟨_, exec_ldB_of_noFaultRow hrow⟩
    | storeRegs => exact ⟨_, exec_storeRegs_of_noFaultRow hrow⟩
    | loadRegs => exact ⟨_, exec_loadRegs_of_noFaultRow hrow⟩
    | ldVxK x =>
      simp only [exec, execLdVxK]
      split_ifs
      · exact ⟨_, rfl⟩
      · exact ⟨_, rfl⟩
      · split <;> exact ⟨_, rfl⟩
    | sys | cls | jp | jpV0 | seByte | sneByte | seReg | sneReg | skp | sknp | ldByte | addByte | ldReg | orReg | andReg
    | xorReg | addReg | subReg | shr | subnReg | shl | rnd | ldVxDT | ldDTVx | ldSTVx | ldI | addI | ldF =>
      exact ⟨_, rfl⟩

theorem step_answers (s : State) : ∃ t, step s = .next t := by
  by_cases hf : s.fault = .noFault
  · cases hw : s.fetch with
    | none => exact ⟨_, step_of_fetchFault hf hw⟩
    | some w =>
      cases hi : decodeWord w with
      | none => exact ⟨_, step_of_unknown hf hw hi⟩
      | some i => rw [step_of_instr hf hw hi]; exact exec_answers i _
  · exact ⟨_, step_of_faulted hf⟩

/-- Settles O13: no arm refuses, and no fault stops the machine. -/
theorem everyCycleAnswersANextState : Obligations.EveryCycleAnswersANextState := by
  unfold Obligations.EveryCycleAnswersANextState
  exact ⟨exec_answers, step_answers⟩

/-! ### The result of a cycle (R248, R281) -/

theorem cycleResult_of_instr (hf : s.fault = .noFault) (hw : s.fetch = some w) (hi : decodeWord w = some i) :
    cycleResult s = executedResult w i s.advance := by
  simp [cycleResult, hf, hw, hi]

/-- Settles O12: `SYS` is the identity, and the one reported instruction. -/
theorem sysIsReportedNoOp : Obligations.SysIsReportedNoOp := by
  unfold Obligations.SysIsReportedNoOp
  exact ⟨fun _ _ => rfl, fun _ _ _ hf hw hi => cycleResult_of_instr hf hw hi⟩

theorem executedResult_of_fault (hrep : isReported i = false) (h : exec i s = .next t) (ht : t.fault ≠ .noFault) :
    executedResult w i s = .fatal t.fault (faultInfo s t.fault) := by
  simp [executedResult, hrep, h, ht]

theorem executedResult_ne_fatal (h : exec i s = .next t) (ht : t.fault = .noFault) (cause : FaultCode) (info : Nat) :
    executedResult w i s ≠ .fatal cause info := by
  unfold executedResult
  split
  · nofun
  · simp [h, ht]

/-- The table looks at items that the fetch's advance of the pc leaves alone. -/
theorem faultRow_advance (i : Instr) (s : State) : faultRow i s.advance = faultRow i s := by
  cases i <;> rfl

theorem State.takeFault_advance (s : State) (f : FaultCode) :
    s.advance.takeFault (s.advance.pc - 2#16) f = { s with fault := f } := by
  rw [State.advance_eq, State.setPC_pc, BitVec.add_sub_cancel]
  rfl

/-- A cycle whose instruction has a row of the table takes that row's fault, at the instruction itself (R284). -/
theorem cycle_of_faultRow {cause : FaultCode} {info : Nat} (hf : s.fault = .noFault) (hw : s.fetch = some w)
    (hi : decodeWord w = some i) (hrow : faultRow i s = some (cause, info)) :
    step s = .next { s with fault := cause } ∧ cycleResult s = .fatal cause info := by
  rw [← faultRow_advance] at hrow
  obtain ⟨hexec, hcause, rfl, hrep⟩ := exec_of_faultRow hrow
  rw [State.takeFault_advance] at hexec
  rw [step_of_instr hf hw hi, cycleResult_of_instr hf hw hi]
  exact ⟨hexec, executedResult_of_fault hrep hexec hcause⟩

/-- A cycle whose instruction has no row of the table leaves `FAULT` clear. -/
theorem cycle_of_noFaultRow (hf : s.fault = .noFault) (hw : s.fetch = some w)
    (hi : decodeWord w = some i) (hrow : faultRow i s = none) :
    (∃ t, step s = .next t ∧ t.fault = .noFault) ∧ ∀ cause info, cycleResult s ≠ .fatal cause info := by
  rw [← faultRow_advance] at hrow
  obtain ⟨t, hexec⟩ := exec_answers i s.advance
  have ht : t.fault = .noFault := ((itemsWritten_of_noFaultRow hrow hexec).faultKept hrow).trans hf
  rw [step_of_instr hf hw hi, cycleResult_of_instr hf hw hi]
  exact ⟨⟨t, hexec, ht⟩, executedResult_ne_fatal hexec ht⟩

/-- Settles O14: the instruction runs on the advanced state, where the table names the same cause, and its fault puts
the pc back. -/
theorem faultTableDecidesEveryCycle : Obligations.FaultTableDecidesEveryCycle := by
  unfold Obligations.FaultTableDecidesEveryCycle
  intro s w i hf hw hi
  exact ⟨fun _ _ => cycle_of_faultRow hf hw hi, cycle_of_noFaultRow hf hw hi⟩

/-! ### Safe runs (R284) -/

/-- A cycle that sets `FAULT` returns `FATAL` (R284, R248). -/
theorem hostCycle_fault (hf : s.fault = .noFault) (h : ∀ cause info, cycleResult s ≠ .fatal cause info) :
    (hostCycle s).fault = .noFault := by
  refine of_hostCycle (P := (·.fault = .noFault)) hf fun t hstep => ?_
  obtain ⟨hne, -⟩ | ⟨-, hw, -⟩ | ⟨w, -, -, -, rfl⟩ | ⟨w, i, -, hw, hi, -⟩ := step_cases hstep
  · exact absurd hf hne
  · exact absurd (by simp [cycleResult, hf, hw]) (h .memOutOfRange (max s.pc.toNat 0x1000))
  · exact hf
  · cases hrow : faultRow i s with
    | some row => exact absurd (cycle_of_faultRow hf hw hi hrow).2 (h _ _)
    | none =>
      obtain ⟨⟨t', hstep', ht'⟩, -⟩ := cycle_of_noFaultRow hf hw hi hrow
      cases hstep.symm.trans hstep'
      exact ht'

theorem perform_fault_of_safe {op : HostOp} (hf : s.fault = .noFault)
    (h : ∀ cause info, performResult op s ≠ .cycle (.fatal cause info)) : (perform op s).fault = .noFault := by
  cases op with
  | cycle => exact hostCycle_fault hf fun cause info e => h cause info (congrArg HostResult.cycle e)
  | load image =>
    obtain ⟨m, hm⟩ := hostLoad_frame image s
    rw [perform, hm]
    exact hf
  | tick => simpa [perform, tick_eq] using hf
  | keyDown k => obtain ⟨-, hk⟩ | ⟨-, hk⟩ := keyDown_cases k s <;> simpa [perform, hk] using hf
  | reset => rfl
  | keyUp | clearDraw | clearSound | observe => exact hf

/-- Settles O56: by induction on the schedule, whose first operation leaves the core unfaulted. -/
theorem safeRunsEndUnfaulted : Obligations.SafeRunsEndUnfaulted := by
  unfold Obligations.SafeRunsEndUnfaulted
  intro ops
  induction ops with
  | nil => exact fun s hf _ => hf
  | cons op rest ih =>
    intro s hf hsafe
    have hfirst := (hsafe (performResult op s) List.mem_cons_self).2
    exact ih (perform op s) (perform_fault_of_safe hf hfirst) fun r hr => hsafe r (List.mem_cons_of_mem _ hr)

end Sys2Proof.Machine
end

section
/-! PROOFS. The register file: a result with its flag (R23), the other updates seen through the registers, and the
registers that each instruction may write (R22, R140, R176). -/

namespace Sys2Proof.Machine

variable {s t : State} {i : Instr}

/-! ### A result and its flag (R23) -/

/-- The flag overwrites the result where the destination is VF. -/
@[simp] theorem State.setResultFlag_getV (s : State) (x : Nibble) (b : Byte) (flag : Bool) (r : Nibble) :
    (s.setResultFlag x b flag).getV r = if r = 15#4 then flagByte flag else if r = x then b else s.getV r := by
  simp [State.setResultFlag, regVF]

/-- The frame of a flag writer in the form the register statements use. -/
theorem State.setResultFlag_frame (s : State) (x : Nibble) (b : Byte) (flag : Bool) :
    { s.setResultFlag x b flag with v := s.v } = s := rfl

@[simp] theorem toNat_flagByte (b : Bool) : (flagByte b).toNat = b.toNat := by cases b <;> rfl

/-! ### Which registers an instruction may write (R22, R140, R176) -/

@[simp] theorem State.skipIf_getV (b : Bool) (r : Nibble) : (s.skipIf b).getV r = s.getV r := by
  rw [State.skipIf_eq, State.setPC_getV]

@[simp] theorem State.requestSound_getV (r : Nibble) : s.requestSound.getV r = s.getV r := by
  rw [State.requestSound_eq, State.setSoundReq_getV]

theorem drawn_getV (s : State) (x y n r : Nibble) :
    (s.drawn x y n).getV r = if r = 15#4 then flagByte (s.blit x y n).hit else s.getV r := by
  simp [State.drawn, regVF]

@[simp] theorem storeBlock_getV (addr n : Nat) (r : Nibble) : (storeBlock addr n s).getV r = s.getV r := by
  obtain ⟨m, hm⟩ := storeBlock_frame addr n s
  rw [hm]
  rfl

theorem loadBlock_getV_of_lt {x r : Nibble} (addr : Nat) (h : x.toNat < r.toNat) :
    (loadBlock addr (x.toNat + 1) s).getV r = s.getV r := by
  rw [loadBlock_getV addr _ s (by have := x.isLt; omega), if_neg (by omega)]

theorem getV_of_execLdVxK {x r : Nibble} (h : execLdVxK x s = .next t) (hr : r ≠ x) : t.getV r = s.getV r := by
  obtain ⟨-, rfl⟩ | ⟨-, -, rfl⟩ | ⟨-, -, k, -, rfl⟩ | ⟨-, -, -, rfl⟩ := execLdVxK_cases h <;>
    simp [State.stall_eq, hr]

theorem getV_of_exec {r : Nibble} (h : exec i s = .next t) (hr : mayWrite r i = false) : t.getV r = s.getV r := by
  cases hrow : faultRow i s with
  | some row =>
    cases h.symm.trans (exec_of_faultRow hrow).1
    rfl
  | none =>
    cases i with
    | call nnn =>
      obtain ⟨_, hexec⟩ := exec_call_of_noFaultRow hrow
      cases h.symm.trans hexec
      rfl
    | ret =>
      obtain ⟨_, _, hexec⟩ := exec_ret_of_noFaultRow hrow
      cases h.symm.trans hexec
      rfl
    | drw x y n =>
      cases h.symm.trans (exec_drw_of_noFaultRow hrow)
      have hne : r ≠ 15#4 := by simpa [mayWrite] using hr
      rw [drawn_getV, if_neg hne]
    | ldB x =>
      cases h.symm.trans (exec_ldB_of_noFaultRow hrow)
      rfl
    | storeRegs x =>
      cases h.symm.trans (exec_storeRegs_of_noFaultRow hrow)
      simp
    | loadRegs x =>
      cases h.symm.trans (exec_loadRegs_of_noFaultRow hrow)
      exact loadBlock_getV_of_lt _ (by simpa [mayWrite] using hr)
    | ldVxK x => exact getV_of_execLdVxK h (by simpa [mayWrite] using hr)
    | ldByte | addByte | ldReg | orReg | andReg | xorReg | rnd | ldVxDT | addReg | subReg | subnReg | shr | shl =>
      cases h
      simp_all [mayWrite]
    | sys | cls | jp | jpV0 | seByte | sneByte | seReg | sneReg | skp | sknp | ldDTVx | ldSTVx | ldI | addI | ldF =>
      cases h
      simp

/-- Settles O29: every write of the register file goes to the destination, to VF last, or to the registers of the
block. -/
theorem registersChangeOnlyAsNamed : Obligations.RegistersChangeOnlyAsNamed := by
  unfold Obligations.RegistersChangeOnlyAsNamed
  intro i s t r h hr
  exact getV_of_exec h hr

end Sys2Proof.Machine
end

section
/-! PROOFS. The arithmetic of the register and index instructions (R142 to R151, R171, R172, R191): each writes the
register file, or I, and the read-back law of that write says what is then held. -/

namespace Sys2Proof.Machine

variable {s : State}

/-! ### Without a flag (R142, R144 to R146, R191) -/

/-- Settles O38: the four results, each written to V[x] alone. -/
theorem flaglessOperationsWriteTheirDestination : Obligations.FlaglessOperationsWriteTheirDestination := by
  unfold Obligations.FlaglessOperationsWriteTheirDestination
  intro x y nn s
  refine ⟨⟨_, rfl, fun r => ?add, State.setV_frame x _⟩, ⟨_, rfl, fun r k => ?or, State.setV_frame x _⟩,
    ⟨_, rfl, fun r k => ?and, State.setV_frame x _⟩, ⟨_, rfl, fun r k => ?xor, State.setV_frame x _⟩⟩
  case add =>
    rw [State.setV_getV, apply_ite BitVec.toNat, BitVec.toNat_add]
  case or =>
    rw [State.setV_getV, apply_ite (BitVec.getLsbD · k), BitVec.getLsbD_or]
  case and =>
    rw [State.setV_getV, apply_ite (BitVec.getLsbD · k), BitVec.getLsbD_and]
  case xor =>
    rw [State.setV_getV, apply_ite (BitVec.getLsbD · k), BitVec.getLsbD_xor]

/-- Settles O42: the AND clears what the mask clears, whatever the free draw is. -/
theorem randomByteIsTheMaskedDraw : Obligations.RandomByteIsTheMaskedDraw := by
  unfold Obligations.RandomByteIsTheMaskedDraw
  intro x nn s
  refine ⟨_, rfl, s.setV_getV x _, fun k hk => ?masked, rfl, rfl⟩
  case masked => simp [hk]

/-! ### With the flag last (R147 to R151) -/

theorem toNat_carryOut (a b : Byte) : (carryOut a b).toNat = if 255 < a.toNat + b.toNat then 1 else 0 := by
  simp [carryOut, Bool.toNat, Bool.cond_decide]

theorem toNat_noBorrow (a b : Byte) : (noBorrow a b).toNat = if b.toNat ≤ a.toNat then 1 else 0 := by
  simp [noBorrow, Bool.toNat, Bool.cond_decide]

theorem toNat_bitOutRight (a : Byte) : (bitOutRight a).toNat = a.toNat % 2 := by
  rw [bitOutRight, BitVec.getLsbD, Nat.toNat_testBit, Nat.pow_zero, Nat.div_one]

theorem toNat_bitOutLeft (a : Byte) : (bitOutLeft a).toNat = a.toNat / 128 := by
  have := a.isLt
  rw [bitOutLeft, BitVec.getLsbD, Nat.toNat_testBit]
  omega

/-- The difference modulo 256, on numbers. -/
theorem toNat_byte_sub (a b : Byte) : (a - b).toNat = (a.toNat + 256 - b.toNat) % 256 := by
  have := b.isLt
  rw [BitVec.toNat_sub]
  congr 1
  omega

/-- What the registers hold after a flag writer, on numbers. -/
theorem toNat_setResultFlag_getV (s : State) (x : Nibble) (b : Byte) (flag : Bool) (r : Nibble) :
    ((s.setResultFlag x b flag).getV r).toNat =
      if r = 15#4 then flag.toNat else if r = x then b.toNat else (s.getV r).toNat := by
  rw [State.setResultFlag_getV, apply_ite BitVec.toNat, apply_ite BitVec.toNat, toNat_flagByte]

/-- Settles O39: the sum, then the carry over it. -/
theorem addSetsCarryLast : Obligations.AddSetsCarryLast := by
  unfold Obligations.AddSetsCarryLast
  intro x y s
  refine ⟨_, rfl, fun r => ?_, State.setResultFlag_frame s x _ _⟩
  rw [toNat_setResultFlag_getV, toNat_carryOut, BitVec.toNat_add]

/-- Settles O40: the two directions of one subtraction. -/
theorem subtractionsSetNoBorrowLast : Obligations.SubtractionsSetNoBorrowLast := by
  unfold Obligations.SubtractionsSetNoBorrowLast
  intro x y s
  refine ⟨⟨_, rfl, fun r => ?_, State.setResultFlag_frame s x _ _⟩,
    ⟨_, rfl, fun r => ?_, State.setResultFlag_frame s x _ _⟩⟩
  all_goals rw [toNat_setResultFlag_getV, toNat_noBorrow, toNat_byte_sub]

/-- Settles O41: the source is read under either setting before any write. -/
theorem shiftsSetTheBitShiftedOutLast : Obligations.ShiftsSetTheBitShiftedOutLast := by
  unfold Obligations.ShiftsSetTheBitShiftedOutLast
  intro x y s src hsrc
  have hsource : (s.shiftSource x y).toNat = src := hsrc.symm
  refine ⟨⟨_, rfl, fun r => ?right, State.setResultFlag_frame s x _ _⟩,
    ⟨_, rfl, fun r => ?left, State.setResultFlag_frame s x _ _⟩⟩
  case right =>
    rw [toNat_setResultFlag_getV, toNat_bitOutRight, BitVec.toNat_ushiftRight, Nat.shiftRight_eq_div_pow, hsource,
      Nat.pow_one]
  case left =>
    rw [toNat_setResultFlag_getV, toNat_bitOutLeft, BitVec.toNat_shiftLeft, Nat.shiftLeft_eq, hsource, Nat.pow_one,
      Nat.mul_comm]

/-! ### The index register (R171, R172) -/

@[simp] theorem toNat_zextByte (b : Byte) : (zextByte b).toNat = b.toNat := BitVec.toNat_setWidth_of_le (by decide)

/-- A glyph's address is far below 65536 for every font base (R6, R172). -/
theorem toNat_glyphAddr (c : Config) (d : Nibble) : (glyphAddr c d).toNat = c.fontBase.val + 5 * d.toNat := by
  have hbase := c.fontBase.isLt
  have hd := d.isLt
  rw [glyphAddr, BitVec.toNat_ofNat]
  omega

theorem toNat_lowNibbleOf (x : Nibble) : (s.lowNibbleOf x).toNat = (s.getV x).toNat % 16 :=
  BitVec.toNat_setWidth _ _

/-- Settles O44: each is one write of I. -/
theorem indexArithmeticWritesOnlyI : Obligations.IndexArithmeticWritesOnlyI := by
  unfold Obligations.IndexArithmeticWritesOnlyI
  intro x s
  refine ⟨⟨_, rfl, ?add, State.setI_frame _⟩, ⟨_, rfl, ?glyph, State.setI_frame _⟩⟩
  case add => rw [State.setI_i, BitVec.toNat_add, toNat_zextByte]
  case glyph => rw [State.setI_i, toNat_glyphAddr, toNat_lowNibbleOf]

end Sys2Proof.Machine
end

section
/-! PROOFS. Jumps, calls and skips (R120 to R129, R210, R211): each is one write of the pc, with the stack beside it for
`CALL` and `RET`. -/

namespace Sys2Proof.Machine

variable {s : State}

theorem toNat_zextAddr_add_zextByte (nnn : Addr12) (b : Byte) :
    (zextAddr nnn + zextByte b).toNat = nnn.toNat + b.toNat := by
  have hn := nnn.isLt
  have hb := b.isLt
  rw [BitVec.toNat_add, toNat_zextAddr, toNat_zextByte]
  omega

/-- Settles O31: the sum of a 12-bit address and a byte is below 65536, so nothing of it is lost. -/
theorem jumpWithOffsetAddsV0 : Obligations.JumpWithOffsetAddsV0 := by
  unfold Obligations.JumpWithOffsetAddsV0
  intro nnn s
  exact ⟨_, rfl, toNat_zextAddr_add_zextByte nnn (s.getV 0#4), rfl⟩

/-- Settles O34: the `RET` reads the cell that the `CALL` wrote, and its place is not looked at. -/
theorem returnAfterCallResumesAfterIt : Obligations.ReturnAfterCallResumesAfterIt := by
  unfold Obligations.ReturnAfterCallResumesAfterIt
  intro nnn retPc s hsp
  have returns := execRet_of_succ (s :=
    { s with stack := s.stack.set s.sp.val s.pc hsp, sp := ⟨s.sp.val + 1, Nat.succ_lt_succ hsp⟩, pc := retPc }) hsp rfl
  simp only [Vector.getElem_set_self] at returns
  exact ⟨_, _, execCall_of_lt nnn hsp, returns, rfl, fun n hn hne => Vector.getElem_set_ne hsp hn hne.symm, rfl⟩

/-! ### Skips (R124 to R128, R210, R211, R214) -/

/-- Settles O35: each is one skip on the comparison of its operands. -/
theorem registerSkipsAddTwo : Obligations.RegisterSkipsAddTwo := by
  unfold Obligations.RegisterSkipsAddTwo
  intro x y nn s
  simp only [exec, execSeByte, execSneByte, execSeReg, execSneReg, State.skipIf_eq, State.setPC_eq, beq_iff_eq,
    bne_iff_ne, and_self]

/-- Settles O36: the key is the low nibble of V[x], the same 4-bit value as `k`. -/
theorem keySkipsTestTheKeyFlag : Obligations.KeySkipsTestTheKeyFlag := by
  unfold Obligations.KeySkipsTestTheKeyFlag
  intro x k s hk
  have hkey : s.lowNibbleOf x = k := BitVec.eq_of_toNat_eq ((BitVec.toNat_setWidth 4 _).trans hk.symm)
  simp only [exec, execSkp, execSknp, hkey, State.skipIf_eq, State.setPC_eq, Bool.not_eq_true', and_self]

end Sys2Proof.Machine
end

section
/-! PROOFS. Reset, tick and key press, and the sound timer (R45, R292, R250, R227). -/

namespace Sys2Proof.Machine

variable {s : State}

/-! ### Reset (R45, R320) -/

theorem resetByte_font (c : Config) {k : Nat} (h : k < 80) : resetByte c (c.fontBase.val + k) = c.font[k]'h := by
  simp [resetByte, h]

theorem resetByte_of_outside (c : Config) {a : Nat} (h : a < c.fontBase.val ∨ c.fontBase.val + 80 ≤ a) :
    resetByte c a = 0#8 := by
  rw [resetByte, dif_neg (by omega)]

/-- The reset state is what `reset` leaves of it. -/
theorem hostReset_reset : hostReset State.reset = State.reset := rfl

/-- Settles O15: a memory without cells reads as its reset contents, and every other item is a fixed value. -/
theorem resetLeavesPowerOnState : Obligations.ResetLeavesPowerOnState := by
  unfold Obligations.ResetLeavesPowerOnState
  intro s r hr
  obtain rfl : r = hostReset s := by
    obtain hr | ⟨rfl, rfl⟩ := hr
    · exact hr
    · exact hostReset_reset.symm
  refine ⟨fun a => rfl, fun k => resetByte_font s.config, fun a => resetByte_of_outside s.config, fun x => ?registers,
    rfl, rfl, fun n hn => ?stack, rfl, rfl, rfl, fun a c => clearDisplay_pixel a c, fun k => ?keys,
    rfl, rfl, rfl, rfl, rfl, rfl, rfl, rfl, rfl, rfl⟩
  case registers => exact Vector.getElem_replicate x.isLt
  case stack => exact Vector.getElem_replicate hn
  case keys => exact Vector.getElem_replicate k.isLt

/-! ### The timers (R227, R292) -/

/-- Settles O17: the sample of the request sees `ST` after its step, so it is nonzero exactly when it was above 1. -/
theorem tickStepsBothTimersDown : Obligations.TickStepsBothTimersDown := by
  unfold Obligations.TickStepsBothTimersDown
  intro s
  have hst : countDown s.st ≠ 0#8 ↔ 1 < s.st.toNat := by
    rw [Ne, ← BitVec.toNat_inj, countDown_toNat, BitVec.toNat_ofNat]
    omega
  simp only [perform, tick_eq]
  refine ⟨countDown_toNat s.dt, countDown_toNat s.st, ?request, ?frame⟩
  case request => simp [← hst]
  case frame => simp

/-- Settles O18: by induction on the ticks, each of which takes one step off both timers. -/
theorem timersReachZeroAndStay : Obligations.TimersReachZeroAndStay := by
  unfold Obligations.TimersReachZeroAndStay
  intro n
  induction n with
  | zero => exact fun s => ⟨rfl, rfl⟩
  | succ n ih =>
    intro s
    obtain ⟨hdt, hst, -⟩ := tickStepsBothTimersDown s
    obtain ⟨ihdt, ihst⟩ := ih (perform .tick s)
    rw [List.replicate_succ, runSchedule, ihdt, ihst, hdt, hst]
    omega

/-- Settles O55: the latch's trigger samples `ST` as just written. -/
theorem soundTimerWriteRequestsSound : Obligations.SoundTimerWriteRequestsSound := by
  unfold Obligations.SoundTimerWriteRequestsSound
  intro x s
  refine ⟨_, congrArg Host.Outcome.next (State.requestSound_eq _), rfl, ?request, rfl⟩
  case request =>
    rw [State.setSoundReq_soundReq, Bool.or_eq_true, decide_eq_true_eq, State.setST_st, State.setST_soundReq]

/-! ### The key press (R250) -/

/-- Settles O19: a press is one flag update, with the four updates of the key wait during a stall. -/
theorem keyDownSetsItsFlagAndEndsAStall : Obligations.KeyDownSetsItsFlagAndEndsAStall := by
  unfold Obligations.KeyDownSetsItsFlagAndEndsAStall
  intro k s
  obtain ⟨hw, hk⟩ | ⟨hw, hk⟩ := keyDown_cases k s <;> simp only [perform, hk]
  · exact ⟨s.setKey_keyDownFlag k true, fun _ => by simp, fun h => absurd (hw.symm.trans h) (by decide)⟩
  · exact ⟨s.setKey_keyDownFlag k true, fun h => absurd (hw.symm.trans h) (by decide),
      fun _ => State.setKey_frame k true⟩

end Sys2Proof.Machine
end

section
/-! PROOFS. The key wait (R212, R213): the four cases of `LD Vx, K`, and what a press makes of a stall. -/

namespace Sys2Proof.Machine

variable {s : State}

theorem exec_ldVxK_of_pending (x : Nibble) (hp : s.keyPending = true) :
    exec (.ldVxK x) s = .next ((s.setV x (zextNibble s.lastKey)).setKeyPending false) := by
  simp [exec, execLdVxK, hp]

theorem exec_ldVxK_of_stalled (x : Nibble) (hp : s.keyPending = false) (hw : s.waiting = true) :
    exec (.ldVxK x) s = .next s.stall := by
  simp [exec, execLdVxK, hp, hw]

theorem exec_ldVxK_of_keyDown (x : Nibble) {k : Nibble} (hp : s.keyPending = false) (hw : s.waiting = false)
    (hk : s.leastKeyDown = some k) : exec (.ldVxK x) s = .next (s.setV x (zextNibble k)) := by
  simp [exec, execLdVxK, hp, hw, hk]

theorem exec_ldVxK_of_noKeyDown (x : Nibble) (hp : s.keyPending = false) (hw : s.waiting = false)
    (hk : s.leastKeyDown = none) : exec (.ldVxK x) s = .next (s.setWaiting true).stall := by
  simp [exec, execLdVxK, hp, hw, hk]

/-- What the registers hold after a key is delivered, on numbers. -/
theorem toNat_setV_zextNibble_getV (s : State) (x k r : Nibble) :
    ((s.setV x (zextNibble k)).getV r).toNat = if r = x then k.toNat else (s.getV r).toNat := by
  rw [State.setV_getV, apply_ite BitVec.toNat, zextNibble, BitVec.toNat_setWidth_of_le (by decide)]

/-- Settles O52: one branch of the meaning for each case. -/
theorem keyWaitFollowsItsFourCases : Obligations.KeyWaitFollowsItsFourCases := by
  unfold Obligations.KeyWaitFollowsItsFourCases
  intro x s
  refine ⟨fun hp => ?pending, exec_ldVxK_of_stalled x, fun k hp hw hdown hleast => ?down, fun hp hw hnone => ?none⟩
  case pending => exact ⟨_, exec_ldVxK_of_pending x hp, toNat_setV_zextNibble_getV s x s.lastKey, rfl, rfl⟩
  case down =>
    have hk : s.leastKeyDown = some k := (s.leastKeyDown_eq_some k).2 ⟨hdown, hleast⟩
    exact ⟨_, exec_ldVxK_of_keyDown x hp hw hk, toNat_setV_zextNibble_getV s x k, State.setV_frame x _⟩
  case none => exact exec_ldVxK_of_noKeyDown x hp hw (s.leastKeyDown_eq_none.2 hnone)

theorem keyDown_of_stalled (k : Nibble) (hw : s.waiting = true) :
    keyDown k s = (((s.setKey k true).setWaiting false).setLastKey k).setKeyPending true :=
  if_pos hw

/-- A cycle of a key-pending core at its `LD Vx, K` delivers the last key and goes on after the instruction (R213). -/
theorem step_delivers {w : Word} {x : Nibble} (hf : s.fault = .noFault) (hw : s.fetch = some w)
    (hi : decodeWord w = some (.ldVxK x)) (hp : s.keyPending = true) :
    ∃ u, step s = .next u ∧ (∀ r, (u.getV r).toNat = if r = x then s.lastKey.toNat else (s.getV r).toNat) ∧
      u.pc = s.pc + 2#16 ∧ u.waiting = s.waiting ∧ u.keyPending = false ∧ u.lastKey = s.lastKey ∧
      u.lastKeyValid = s.lastKeyValid := by
  rw [step_of_instr hf hw hi]
  exact ⟨_, exec_ldVxK_of_pending x hp, toNat_setV_zextNibble_getV s.advance x s.lastKey, rfl, rfl, rfl, rfl, rfl⟩

/-- Settles O53: the press leaves a key-pending core at the same instruction, and a release after it touches nothing
that the delivery reads. -/
theorem keyPressEndsTheStallInOneCycle : Obligations.KeyPressEndsTheStallInOneCycle := by
  unfold Obligations.KeyPressEndsTheStallInOneCycle
  intro s w x hinv hf hwait hw hi
  constructor
  · rw [step_of_instr hf hw hi, exec_ldVxK_of_stalled (s := s.advance) x (hinv.notPending hwait) hwait,
      State.stall_advance]
  · intro k released
    have at_instruction {t : State} (hm : t.mem = s.mem) (hc : t.config = s.config) (hpc : t.pc = s.pc) :
        t.fetch = some w := (State.fetch_congr hm hc hpc).trans hw
    simp only [perform, keyUp, keyDown_of_stalled k hwait]
    cases released
    case false =>
      have delivered := step_delivers (s := (((s.setKey k true).setWaiting false).setLastKey k).setKeyPending true)
        (by simpa using hf) (at_instruction (by simp) (by simp) (by simp)) hi (by simp)
      simpa using delivered
    case true =>
      have delivered := step_delivers
        (s := ((((s.setKey k true).setWaiting false).setLastKey k).setKeyPending true).setKey k false)
        (by simpa using hf) (at_instruction (by simp) (by simp) (by simp)) hi (by simp)
      simpa using delivered

end Sys2Proof.Machine
end

section
/-! PROOFS. The memory instructions (R174 to R177): what the bytes and the registers then are, from the laws of the
block operations. -/

namespace Sys2Proof.Machine

variable {s : State}

/-! ### `LD B, Vx` (R174) -/

theorem toNat_hundreds (b : Byte) : (hundreds b).toNat = b.toNat / 100 := by
  have := b.isLt
  rw [hundreds, BitVec.toNat_ofNat]
  omega

theorem toNat_tens (b : Byte) : (tens b).toNat = b.toNat / 10 % 10 := by
  rw [tens, BitVec.toNat_ofNat]
  omega

theorem toNat_ones (b : Byte) : (ones b).toNat = b.toNat % 10 := by
  rw [ones, BitVec.toNat_ofNat]
  omega

/-- Settles O45: the three stores write the digits at three different addresses inside memory. -/
theorem bcdStoresTheThreeDigits : Obligations.BcdStoresTheThreeDigits := by
  unfold Obligations.BcdStoresTheThreeDigits
  intro x s hs
  refine ⟨fun hin => ⟨_, exec_ldB_of_inside hin, ?hundreds, ?tens, ?ones, fun a ha => ?others, rfl⟩,
    exec_ldB_of_outside⟩
  all_goals rw [storeDigits_readByte (s.getV x) hs hin]
  case hundreds => rw [if_pos rfl, toNat_hundreds]
  case tens => rw [if_neg (by omega), if_pos rfl, toNat_tens]
  case ones => rw [if_neg (by omega), if_neg (by omega), if_pos rfl, toNat_ones]
  case others => rw [if_neg (by omega), if_neg (by omega), if_neg (by omega)]

/-! ### The block moves (R175 to R177) -/

theorem toNat_blockIndex (s : State) (x : Nibble) :
    (s.blockIndex x).toNat =
      if s.config.indexIncrement = true then (s.i.toNat + x.toNat + 1) % 65536 else s.i.toNat := by
  rw [State.blockIndex, apply_ite BitVec.toNat, BitVec.toNat_ofNat]

theorem storeBlock_setI_frame (addr n : Nat) (w : Word) :
    { (storeBlock addr n s).setI w with mem := s.mem, i := s.i } = s := by
  obtain ⟨m, hm⟩ := storeBlock_frame addr n s
  rw [hm]
  rfl

theorem loadBlock_setI_frame (addr n : Nat) (w : Word) :
    { (loadBlock addr n s).setI w with v := s.v, i := s.i } = s := by
  obtain ⟨v, hv⟩ := loadBlock_frame addr n s
  rw [hv]
  rfl

/-- Byte k of the block that `LD [I], Vx` stores is V[k]. -/
theorem storeBlock_readByte_register {x k : Nibble} (hs : s.MemCanonical) (hin : s.i.toNat + x.toNat ≤ 0xFFF)
    (hk : k.toNat ≤ x.toNat) :
    (storeBlock (s.dataAddr 0) (x.toNat + 1) s).readByte (s.i.toNat + k.toNat) = s.getV k := by
  rw [storeBlock_readByte _ _ hs (Nat.succ_le_succ hin), State.dataAddr, Nat.add_zero, if_pos (by omega),
    Nat.add_sub_cancel_left, BitVec.ofNat_toNat, BitVec.setWidth_eq]

theorem storeBlock_readByte_other {x : Nibble} {a : Nat} (hs : s.MemCanonical) (hin : s.i.toNat + x.toNat ≤ 0xFFF)
    (ha : a < s.i.toNat ∨ s.i.toNat + x.toNat < a) :
    (storeBlock (s.dataAddr 0) (x.toNat + 1) s).readByte a = s.readByte a := by
  rw [storeBlock_readByte _ _ hs (Nat.succ_le_succ hin), State.dataAddr, Nat.add_zero, if_neg (by omega)]

/-- What the registers hold after `LD Vx, [I]`. -/
theorem loadBlock_getV_register (s : State) (x k : Nibble) :
    (loadBlock (s.dataAddr 0) (x.toNat + 1) s).getV k =
      if k.toNat ≤ x.toNat then s.readByte (s.i.toNat + k.toNat) else s.getV k := by
  simp only [loadBlock_getV _ _ s x.isLt, State.dataAddr, Nat.add_zero, Nat.lt_succ_iff]

/-- Settles O46: the block store writes the x + 1 bytes of the block, and only then I moves. -/
theorem blockStoreWritesV0ToVx : Obligations.BlockStoreWritesV0ToVx := by
  unfold Obligations.BlockStoreWritesV0ToVx
  intro x s hs
  exact ⟨fun hin => ⟨_, exec_storeRegs_of_inside hin, fun _ => storeBlock_readByte_register hs hin,
    fun _ => storeBlock_readByte_other hs hin, toNat_blockIndex s x, storeBlock_setI_frame _ _ _⟩,
    exec_storeRegs_of_outside⟩

/-- Settles O47: the block load writes the x + 1 registers of the block, and only then I moves. -/
theorem blockLoadReadsV0ToVx : Obligations.BlockLoadReadsV0ToVx := by
  unfold Obligations.BlockLoadReadsV0ToVx
  intro x s
  exact ⟨fun hin => ⟨_, exec_loadRegs_of_inside hin, loadBlock_getV_register s x, toNat_blockIndex s x,
    loadBlock_setI_frame _ _ _⟩, exec_loadRegs_of_outside⟩

/-- Settles O48: the load reads the bytes that the store wrote, whatever the register file holds between. -/
theorem blockStoreThenLoadRestores : Obligations.BlockStoreThenLoadRestores := by
  unfold Obligations.BlockStoreThenLoadRestores
  intro x s between hs hin
  obtain ⟨t, hstore, hbytes, -⟩ := (blockStoreWritesV0ToVx x s hs).1 hin
  obtain ⟨u, hload, hregs, -⟩ := (blockLoadReadsV0ToVx x { t with i := s.i, v := between }).1 hin
  refine ⟨t, u, hstore, hload, fun k hk => ?_⟩
  rw [hregs, if_pos hk]
  exact hbytes k hk

end Sys2Proof.Machine
end

section
/-! PROOFS. `DRW` (R195 to R198): the blit XORs the wrapped image of the sprite onto the display and hits where the two
overlap; drawn twice, the image cancels itself. -/

namespace Sys2Proof.Machine

variable {s t : State} {x y n : Nibble}

/-- The wrapped image that `DRW Vx, Vy, n` draws in state `s` (R197). -/
def State.drawnImage (s : State) (x y n : Nibble) : Fin 32 → Fin 64 → Bool :=
  s.spriteImage ((s.getV x).toNat % 64) ((s.getV y).toNat % 32) n.toNat

theorem blit_pixel (s : State) (x y n : Nibble) (r : Fin 32) (c : Fin 64) :
    (s.blit x y n).disp.pixel r c = (s.disp.pixel r c ^^ s.drawnImage x y n r c) :=
  blitRows_pixel s (Nat.mod_lt _ (by decide)) (Nat.mod_lt _ (by decide)) n.toNat (by have := n.isLt; omega) _ r c

theorem blit_hit (s : State) (x y n : Nibble) :
    (s.blit x y n).hit = true ↔ ∃ r c, s.drawnImage x y n r c = true ∧ s.disp.pixel r c = true := by
  have hit_iff := blitRows_hit s (Nat.mod_lt (s.getV x).toNat (by decide : 0 < 64))
    (Nat.mod_lt (s.getV y).toNat (by decide : 0 < 32)) n.toNat (by have := n.isLt; omega) ⟨s.disp, false⟩
  exact hit_iff.trans (or_iff_right Bool.false_ne_true)

theorem flagByte_eq_one_iff (b : Bool) : flagByte b = 1#8 ↔ b = true := by cases b <;> decide

theorem flagByte_eq_zero_iff (b : Bool) : flagByte b = 0#8 ↔ b = false := by cases b <;> decide

/-- Settles O50: the flag is written over the registers last, and the range is checked before anything is drawn. -/
theorem drawXorsTheWrappedSprite : Obligations.DrawXorsTheWrappedSprite := by
  unfold Obligations.DrawXorsTheWrappedSprite
  rintro x y n s image rfl
  refine ⟨fun hin => ⟨s.drawn x y n, exec_drw_of_inside hin, blit_pixel s x y n, ?one, ?zero, fun r hr => ?others, rfl,
    rfl⟩, exec_drw_of_outside⟩
  case one =>
    rw [drawn_getV, if_pos rfl, flagByte_eq_one_iff]
    exact blit_hit s x y n
  case zero =>
    rw [drawn_getV, if_pos rfl, flagByte_eq_zero_iff, ← Bool.not_eq_true, blit_hit]
    simp [State.drawnImage]
  case others => rw [drawn_getV, if_neg hr]

/-- A draw that leaves V[x] and V[y] as they were draws the same image again: the bytes of the sprite and I are not
written. -/
theorem drawn_drawnImage (hx : (s.drawn x y n).getV x = s.getV x) (hy : (s.drawn x y n).getV y = s.getV y) :
    (s.drawn x y n).drawnImage x y n = s.drawnImage x y n := by
  rw [State.drawnImage, State.drawnImage, hx, hy]
  rfl

/-- Settles O51: the second draw XORs the same image, and meets a 1 exactly where the first met a 0. -/
theorem twoIdenticalDrawsRestoreTheDisplay : Obligations.TwoIdenticalDrawsRestoreTheDisplay := by
  unfold Obligations.TwoIdenticalDrawsRestoreTheDisplay
  intro x y n s t hin h hx hy
  cases h.symm.trans (exec_drw_of_inside hin)
  have himage : (s.drawn x y n).drawnImage x y n = s.drawnImage x y n := drawn_drawnImage hx hy
  have hpixel (r : Fin 32) (c : Fin 64) :
      (s.drawn x y n).disp.pixel r c = (s.disp.pixel r c ^^ s.drawnImage x y n r c) := blit_pixel s x y n r c
  refine ⟨(s.drawn x y n).drawn x y n, exec_drw_of_inside hin, Display.ext_pixel fun r c => ?restored, ?flag⟩
  case restored =>
    have := blit_pixel (s.drawn x y n) x y n r c
    rw [himage, hpixel, Bool.xor_assoc, Bool.xor_self, Bool.xor_false] at this
    exact this
  case flag =>
    rw [drawn_getV, if_pos rfl, flagByte_eq_one_iff, blit_hit, himage]
    refine exists_congr fun r => exists_congr fun c => and_congr_right fun hone => ?_
    rw [hpixel, hone, Bool.xor_true, Bool.not_eq_true']

end Sys2Proof.Machine
end
